-- ==== Sys2Proof/Word.lean ====
section
/-! DEFINITION. The machine's word and byte, and the pattern of an integer modulo 2^32 (00_scope.md R14, R15). -/

namespace Sys2Proof

/-- 8 bits, the unit of memory (00_scope.md R6). -/
abbrev Byte := BitVec 8

/-- 32 bits, the width of every register and of every instruction (00_scope.md R6).
`v.toNat` is the spec's `u(v)`, `v.toInt` its `s(v)` (R15). -/
abbrev Word := BitVec 32

/-- The spec's `w32(k)`: the pattern of the integer `k` modulo 2^32 (00_scope.md R15). -/
def w32 (k : Int) : Word := BitVec.ofInt 32 k

end Sys2Proof
end

