-- ==== Sys2Proof/Syntax.lean ====
section
/-! DEFINITION. The registers and the 69 instructions (10_state.md R33 to R43, 30_encoding.md R131). A register
operand is a register, not a number: a number above 44 names none and is rejected at decode (10_state.md R34).
Immediates are the raw bits of their field (30_encoding.md R130). -/

namespace Sys2Proof

/-- The 45 registers (10_state.md R33). `gen k` is the general register R(k+1), number k+1 (R39). -/
inductive Reg where
  | zero
  | gen (k : Fin 32)
  | pc
  | ds
  | hs
  | he
  | sp
  | fp
  | ir
  | stat
  | err
  | hi
  | lo
  | cmpr
  deriving DecidableEq, Repr

/-- The write-protected registers: ZERO, PC, DS, HS and IR (10_state.md R38). -/
def Reg.writeProtected : Reg → Bool
  | .zero => true
  | .pc => true
  | .ds => true
  | .hs => true
  | .ir => true
  | .gen _ => false
  | .he => false
  | .sp => false
  | .fp => false
  | .stat => false
  | .err => false
  | .hi => false
  | .lo => false
  | .cmpr => false

/-- The 69 instructions, in opcode order (30_encoding.md R131). -/
inductive Instr where
  /-- 0x00 NOP, format 000 -/
  | nop
  /-- 0x04 EOP, format 000 -/
  | eop
  /-- 0x10 SET X, N, format RNN -/
  | set (x : Reg) (n : BitVec 16)
  /-- 0x11 CP X, Y, format RR0 -/
  | cp (x y : Reg)
  /-- 0x12 LB X, Y, format RR0 -/
  | lb (x y : Reg)
  /-- 0x13 LW X, Y, format RR0 -/
  | lw (x y : Reg)
  /-- 0x14 SB X, Y, format RR0 -/
  | sb (x y : Reg)
  /-- 0x15 SW X, Y, format RR0 -/
  | sw (x y : Reg)
  /-- 0x18 PUSH X, format R00 -/
  | push (x : Reg)
  /-- 0x19 POP X, format R00 -/
  | pop (x : Reg)
  /-- 0x30 ADD X, Y, Z, format RRR -/
  | add (x y z : Reg)
  /-- 0x31 ADDU X, Y, Z, format RRR -/
  | addu (x y z : Reg)
  /-- 0x32 ADDI X, Y, N, format RRN -/
  | addi (x y : Reg) (n : BitVec 8)
  /-- 0x33 SUB X, Y, Z, format RRR -/
  | sub (x y z : Reg)
  /-- 0x34 SUBU X, Y, Z, format RRR -/
  | subu (x y z : Reg)
  /-- 0x35 SUBI X, Y, N, format RRN -/
  | subi (x y : Reg) (n : BitVec 8)
  /-- 0x36 SUBI2 X, Y, N, format RRN -/
  | subi2 (x y : Reg) (n : BitVec 8)
  /-- 0x38 MUL X, Y, format RR0 -/
  | mul (x y : Reg)
  /-- 0x39 MULU X, Y, format RR0 -/
  | mulu (x y : Reg)
  /-- 0x3A MULI X, N, format RNN -/
  | muli (x : Reg) (n : BitVec 16)
  /-- 0x3B DIV X, Y, format RR0 -/
  | div (x y : Reg)
  /-- 0x3C DIVU X, Y, format RR0 -/
  | divu (x y : Reg)
  /-- 0x3D DIVI X, N, format RNN -/
  | divi (x : Reg) (n : BitVec 16)
  /-- 0x3E DIVI2 X, N, format RNN -/
  | divi2 (x : Reg) (n : BitVec 16)
  /-- 0x40 ABS X, Y, format RR0 -/
  | abs (x y : Reg)
  /-- 0x41 NEG X, Y, format RR0 -/
  | neg (x y : Reg)
  /-- 0x42 INC X, format R00 -/
  | inc (x : Reg)
  /-- 0x43 DEC X, format R00 -/
  | dec (x : Reg)
  /-- 0x48 MOD X, Y, Z, format RRR -/
  | mod (x y z : Reg)
  /-- 0x49 MODI X, Y, N, format RRN -/
  | modi (x y : Reg) (n : BitVec 8)
  /-- 0x4A MODI2 X, Y, N, format RRN -/
  | modi2 (x y : Reg) (n : BitVec 8)
  /-- 0x50 AND X, Y, Z, format RRR -/
  | and (x y z : Reg)
  /-- 0x51 ANDI X, Y, N, format RRN -/
  | andi (x y : Reg) (n : BitVec 8)
  /-- 0x52 OR X, Y, Z, format RRR -/
  | or (x y z : Reg)
  /-- 0x53 ORI X, Y, N, format RRN -/
  | ori (x y : Reg) (n : BitVec 8)
  /-- 0x54 XOR X, Y, Z, format RRR -/
  | xor (x y z : Reg)
  /-- 0x55 XORI X, Y, N, format RRN -/
  | xori (x y : Reg) (n : BitVec 8)
  /-- 0x56 NOT X, Y, format RR0 -/
  | not (x y : Reg)
  /-- 0x57 NOTI X, N, format RNN -/
  | noti (x : Reg) (n : BitVec 16)
  /-- 0x58 NAND X, Y, Z, format RRR -/
  | nand (x y z : Reg)
  /-- 0x59 NANDI X, Y, N, format RRN -/
  | nandi (x y : Reg) (n : BitVec 8)
  /-- 0x5A NOR X, Y, Z, format RRR -/
  | nor (x y z : Reg)
  /-- 0x5B NORI X, Y, N, format RRN -/
  | nori (x y : Reg) (n : BitVec 8)
  /-- 0x60 SHL X, Y, Z, format RRR -/
  | shl (x y z : Reg)
  /-- 0x61 SHLI X, Y, N, format RRN -/
  | shli (x y : Reg) (n : BitVec 8)
  /-- 0x62 SHR X, Y, Z, format RRR -/
  | shr (x y z : Reg)
  /-- 0x63 SHRI X, Y, N, format RRN -/
  | shri (x y : Reg) (n : BitVec 8)
  /-- 0x64 SHRA X, Y, Z, format RRR -/
  | shra (x y z : Reg)
  /-- 0x65 SHRAI X, Y, N, format RRN -/
  | shrai (x y : Reg) (n : BitVec 8)
  /-- 0x68 ROTL X, Y, Z, format RRR -/
  | rotl (x y z : Reg)
  /-- 0x69 ROTLI X, Y, N, format RRN -/
  | rotli (x y : Reg) (n : BitVec 8)
  /-- 0x6A ROTR X, Y, Z, format RRR -/
  | rotr (x y z : Reg)
  /-- 0x6B ROTRI X, Y, N, format RRN -/
  | rotri (x y : Reg) (n : BitVec 8)
  /-- 0x70 CMP X, Y, format RR0 -/
  | cmp (x y : Reg)
  /-- 0x71 CMPU X, Y, format RR0 -/
  | cmpu (x y : Reg)
  /-- 0x72 CMPI X, N, format RNN -/
  | cmpi (x : Reg) (n : BitVec 16)
  /-- 0x80 BE N, format NNN -/
  | be (n : BitVec 24)
  /-- 0x81 BNE N, format NNN -/
  | bne (n : BitVec 24)
  /-- 0x82 BL N, format NNN -/
  | bl (n : BitVec 24)
  /-- 0x83 BLE N, format NNN -/
  | ble (n : BitVec 24)
  /-- 0x84 BG N, format NNN -/
  | bg (n : BitVec 24)
  /-- 0x85 BGE N, format NNN -/
  | bge (n : BitVec 24)
  /-- 0x88 JMP N, format NNN -/
  | jmp (n : BitVec 24)
  /-- 0x90 GO X, format R00 -/
  | go (x : Reg)
  /-- 0x91 CALL N, format NNN -/
  | call (n : BitVec 24)
  /-- 0x92 RET, format 000 -/
  | ret
  /-- 0xA0 INT N, format NNN -/
  | int (n : BitVec 24)
  /-- 0xB0 IN A, N, P, format RRR: `x` the address register, `y` the count register, `z` the port register -/
  | inp (x y z : Reg)
  /-- 0xB8 OUT A, N, P, format RRR: `x` the address register, `y` the count register, `z` the port register -/
  | out (x y z : Reg)
  deriving DecidableEq, Repr

end Sys2Proof
end

