-- ==== Sys2Proof/Decode.lean ====
section
/-! DEFINITION. Register numbers, instruction fields, the decoder and after it the encoder, from the tables of
30_encoding.md R121 to R131 and 10_state.md R39, R42. -/

namespace Sys2Proof
open Sys2Proof.Machine

/-- The register with the given number, if there is one: 0 to 44 (10_state.md R34, R39, R42). -/
def Reg.ofNum (n : Nat) : Option Reg :=
  match n with
  | 0 => some .zero
  | 33 => some .pc
  | 34 => some .ds
  | 35 => some .hs
  | 36 => some .he
  | 37 => some .sp
  | 38 => some .fp
  | 39 => some .ir
  | 40 => some .stat
  | 41 => some .err
  | 42 => some .hi
  | 43 => some .lo
  | 44 => some .cmpr
  | k => if h : k - 1 < 32 then some (.gen ⟨k - 1, h⟩) else none

/-- The number of a register (10_state.md R39, R42). -/
def Reg.num : Reg → Nat
  | .zero => 0
  | .gen k => k.val + 1
  | .pc => 33
  | .ds => 34
  | .hs => 35
  | .he => 36
  | .sp => 37
  | .fp => 38
  | .ir => 39
  | .stat => 40
  | .err => 41
  | .hi => 42
  | .lo => 43
  | .cmpr => 44

/-- `IR[31:24]`, the opcode (30_encoding.md R121). -/
def opcodeField (w : Word) : Byte := w.extractLsb' 24 8
/-- `IR[23:16]`, the register number X (30_encoding.md R129). -/
def xField (w : Word) : Byte := w.extractLsb' 16 8
/-- `IR[15:8]`, the register number Y (30_encoding.md R129). -/
def yField (w : Word) : Byte := w.extractLsb' 8 8
/-- `IR[7:0]`, the register number Z (30_encoding.md R129). -/
def zField (w : Word) : Byte := w.extractLsb' 0 8
/-- `IR[7:0]`, the immediate of format RRN (30_encoding.md R127). -/
def imm8Field (w : Word) : BitVec 8 := w.extractLsb' 0 8
/-- `IR[15:0]`, the immediate of format RNN (30_encoding.md R125). -/
def imm16Field (w : Word) : BitVec 16 := w.extractLsb' 0 16
/-- `IR[23:0]`, the immediate of format NNN (30_encoding.md R123). -/
def imm24Field (w : Word) : BitVec 24 := w.extractLsb' 0 24

/-- Why a word is no instruction. -/
inductive DecodeReject where
  /-- the first byte is none of the 69 opcodes (30_encoding.md R135) -/
  | invalidOpcode
  /-- a register field holds a number above 44 (30_encoding.md R134) -/
  | invalidRegister
  deriving DecidableEq, Repr

/-- Format R00 (30_encoding.md R124): the two low bytes are ignored. -/
def decodeR00 (make : Reg → Instr) (w : Word) : Except DecodeReject Instr :=
  match Reg.ofNum (xField w).toNat with
  | some x => .ok (make x)
  | none => .error .invalidRegister

/-- Format RNN (30_encoding.md R125). -/
def decodeRNN (make : Reg → BitVec 16 → Instr) (w : Word) : Except DecodeReject Instr :=
  match Reg.ofNum (xField w).toNat with
  | some x => .ok (make x (imm16Field w))
  | none => .error .invalidRegister

/-- Format RR0 (30_encoding.md R126): the low byte is ignored. -/
def decodeRR0 (make : Reg → Reg → Instr) (w : Word) : Except DecodeReject Instr :=
  match Reg.ofNum (xField w).toNat, Reg.ofNum (yField w).toNat with
  | some x, some y => .ok (make x y)
  | _, _ => .error .invalidRegister

/-- Format RRN (30_encoding.md R127). -/
def decodeRRN (make : Reg → Reg → BitVec 8 → Instr) (w : Word) : Except DecodeReject Instr :=
  match Reg.ofNum (xField w).toNat, Reg.ofNum (yField w).toNat with
  | some x, some y => .ok (make x y (imm8Field w))
  | _, _ => .error .invalidRegister

/-- Format RRR (30_encoding.md R128). -/
def decodeRRR (make : Reg → Reg → Reg → Instr) (w : Word) : Except DecodeReject Instr :=
  match Reg.ofNum (xField w).toNat, Reg.ofNum (yField w).toNat, Reg.ofNum (zField w).toNat with
  | some x, some y, some z => .ok (make x y z)
  | _, _, _ => .error .invalidRegister

/-- The instruction a word encodes whose first byte is `opcode` (30_encoding.md R131). -/
def decodeOpcode (opcode : Nat) (w : Word) : Except DecodeReject Instr :=
  match opcode with
  | 0x00 => .ok .nop
  | 0x04 => .ok .eop
  | 0x10 => decodeRNN .set w
  | 0x11 => decodeRR0 .cp w
  | 0x12 => decodeRR0 .lb w
  | 0x13 => decodeRR0 .lw w
  | 0x14 => decodeRR0 .sb w
  | 0x15 => decodeRR0 .sw w
  | 0x18 => decodeR00 .push w
  | 0x19 => decodeR00 .pop w
  | 0x30 => decodeRRR .add w
  | 0x31 => decodeRRR .addu w
  | 0x32 => decodeRRN .addi w
  | 0x33 => decodeRRR .sub w
  | 0x34 => decodeRRR .subu w
  | 0x35 => decodeRRN .subi w
  | 0x36 => decodeRRN .subi2 w
  | 0x38 => decodeRR0 .mul w
  | 0x39 => decodeRR0 .mulu w
  | 0x3A => decodeRNN .muli w
  | 0x3B => decodeRR0 .div w
  | 0x3C => decodeRR0 .divu w
  | 0x3D => decodeRNN .divi w
  | 0x3E => decodeRNN .divi2 w
  | 0x40 => decodeRR0 .abs w
  | 0x41 => decodeRR0 .neg w
  | 0x42 => decodeR00 .inc w
  | 0x43 => decodeR00 .dec w
  | 0x48 => decodeRRR .mod w
  | 0x49 => decodeRRN .modi w
  | 0x4A => decodeRRN .modi2 w
  | 0x50 => decodeRRR .and w
  | 0x51 => decodeRRN .andi w
  | 0x52 => decodeRRR .or w
  | 0x53 => decodeRRN .ori w
  | 0x54 => decodeRRR .xor w
  | 0x55 => decodeRRN .xori w
  | 0x56 => decodeRR0 .not w
  | 0x57 => decodeRNN .noti w
  | 0x58 => decodeRRR .nand w
  | 0x59 => decodeRRN .nandi w
  | 0x5A => decodeRRR .nor w
  | 0x5B => decodeRRN .nori w
  | 0x60 => decodeRRR .shl w
  | 0x61 => decodeRRN .shli w
  | 0x62 => decodeRRR .shr w
  | 0x63 => decodeRRN .shri w
  | 0x64 => decodeRRR .shra w
  | 0x65 => decodeRRN .shrai w
  | 0x68 => decodeRRR .rotl w
  | 0x69 => decodeRRN .rotli w
  | 0x6A => decodeRRR .rotr w
  | 0x6B => decodeRRN .rotri w
  | 0x70 => decodeRR0 .cmp w
  | 0x71 => decodeRR0 .cmpu w
  | 0x72 => decodeRNN .cmpi w
  | 0x80 => .ok (.be (imm24Field w))
  | 0x81 => .ok (.bne (imm24Field w))
  | 0x82 => .ok (.bl (imm24Field w))
  | 0x83 => .ok (.ble (imm24Field w))
  | 0x84 => .ok (.bg (imm24Field w))
  | 0x85 => .ok (.bge (imm24Field w))
  | 0x88 => .ok (.jmp (imm24Field w))
  | 0x90 => decodeR00 .go w
  | 0x91 => .ok (.call (imm24Field w))
  | 0x92 => .ok .ret
  | 0xA0 => .ok (.int (imm24Field w))
  | 0xB0 => decodeRRR .inp w
  | 0xB8 => decodeRRR .out w
  | _ => .error .invalidOpcode

/-- The instruction a word encodes, the opcode checked before the register numbers (10_state.md R46, 30_encoding.md R121). -/
def decodeWord (w : Word) : Except DecodeReject Instr := decodeOpcode (opcodeField w).toNat w

/-- Why bytes are no instruction. -/
inductive BytesReject where
  /-- fewer than four bytes -/
  | truncated
  /-- the word they form is no instruction -/
  | word (why : DecodeReject)
  deriving DecidableEq, Repr

/-- The instruction at the head of a list of bytes, as they lie in memory from the lowest address, and the bytes
after it (30_encoding.md R120, R121). -/
def decode : List Byte → Except BytesReject (Instr × List Byte)
  | b0 :: b1 :: b2 :: b3 :: rest =>
    match decodeWord (wordOfBytes b0 b1 b2 b3) with
    | .ok i => .ok (i, rest)
    | .error why => .error (.word why)
  | _ => .error .truncated

/-- A word from its opcode byte and the 24 bits below it (30_encoding.md R121). -/
def opcodeWord (op : Byte) (low : BitVec 24) : Word := BitVec.ofNat 32 (op.toNat * 2 ^ 24 + low.toNat)

/-- Format R00, unused bytes 0 (30_encoding.md R124, R129). -/
def encodeR00 (op : Byte) (x : Reg) : Word := opcodeWord op (BitVec.ofNat 24 (x.num * 2 ^ 16))

/-- Format RNN (30_encoding.md R125). -/
def encodeRNN (op : Byte) (x : Reg) (n : BitVec 16) : Word :=
  opcodeWord op (BitVec.ofNat 24 (x.num * 2 ^ 16 + n.toNat))

/-- Format RR0, unused byte 0 (30_encoding.md R126, R129). -/
def encodeRR0 (op : Byte) (x y : Reg) : Word := opcodeWord op (BitVec.ofNat 24 (x.num * 2 ^ 16 + y.num * 2 ^ 8))

/-- Format RRN (30_encoding.md R127). -/
def encodeRRN (op : Byte) (x y : Reg) (n : BitVec 8) : Word :=
  opcodeWord op (BitVec.ofNat 24 (x.num * 2 ^ 16 + y.num * 2 ^ 8 + n.toNat))

/-- Format RRR (30_encoding.md R128). -/
def encodeRRR (op : Byte) (x y z : Reg) : Word :=
  opcodeWord op (BitVec.ofNat 24 (x.num * 2 ^ 16 + y.num * 2 ^ 8 + z.num))

/-- The word of an instruction, unused bytes 0 (30_encoding.md R129, R131). -/
def encode : Instr → Word
  | .nop => opcodeWord 0x00 0
  | .eop => opcodeWord 0x04 0
  | .set x n => encodeRNN 0x10 x n
  | .cp x y => encodeRR0 0x11 x y
  | .lb x y => encodeRR0 0x12 x y
  | .lw x y => encodeRR0 0x13 x y
  | .sb x y => encodeRR0 0x14 x y
  | .sw x y => encodeRR0 0x15 x y
  | .push x => encodeR00 0x18 x
  | .pop x => encodeR00 0x19 x
  | .add x y z => encodeRRR 0x30 x y z
  | .addu x y z => encodeRRR 0x31 x y z
  | .addi x y n => encodeRRN 0x32 x y n
  | .sub x y z => encodeRRR 0x33 x y z
  | .subu x y z => encodeRRR 0x34 x y z
  | .subi x y n => encodeRRN 0x35 x y n
  | .subi2 x y n => encodeRRN 0x36 x y n
  | .mul x y => encodeRR0 0x38 x y
  | .mulu x y => encodeRR0 0x39 x y
  | .muli x n => encodeRNN 0x3A x n
  | .div x y => encodeRR0 0x3B x y
  | .divu x y => encodeRR0 0x3C x y
  | .divi x n => encodeRNN 0x3D x n
  | .divi2 x n => encodeRNN 0x3E x n
  | .abs x y => encodeRR0 0x40 x y
  | .neg x y => encodeRR0 0x41 x y
  | .inc x => encodeR00 0x42 x
  | .dec x => encodeR00 0x43 x
  | .mod x y z => encodeRRR 0x48 x y z
  | .modi x y n => encodeRRN 0x49 x y n
  | .modi2 x y n => encodeRRN 0x4A x y n
  | .and x y z => encodeRRR 0x50 x y z
  | .andi x y n => encodeRRN 0x51 x y n
  | .or x y z => encodeRRR 0x52 x y z
  | .ori x y n => encodeRRN 0x53 x y n
  | .xor x y z => encodeRRR 0x54 x y z
  | .xori x y n => encodeRRN 0x55 x y n
  | .not x y => encodeRR0 0x56 x y
  | .noti x n => encodeRNN 0x57 x n
  | .nand x y z => encodeRRR 0x58 x y z
  | .nandi x y n => encodeRRN 0x59 x y n
  | .nor x y z => encodeRRR 0x5A x y z
  | .nori x y n => encodeRRN 0x5B x y n
  | .shl x y z => encodeRRR 0x60 x y z
  | .shli x y n => encodeRRN 0x61 x y n
  | .shr x y z => encodeRRR 0x62 x y z
  | .shri x y n => encodeRRN 0x63 x y n
  | .shra x y z => encodeRRR 0x64 x y z
  | .shrai x y n => encodeRRN 0x65 x y n
  | .rotl x y z => encodeRRR 0x68 x y z
  | .rotli x y n => encodeRRN 0x69 x y n
  | .rotr x y z => encodeRRR 0x6A x y z
  | .rotri x y n => encodeRRN 0x6B x y n
  | .cmp x y => encodeRR0 0x70 x y
  | .cmpu x y => encodeRR0 0x71 x y
  | .cmpi x n => encodeRNN 0x72 x n
  | .be n => opcodeWord 0x80 n
  | .bne n => opcodeWord 0x81 n
  | .bl n => opcodeWord 0x82 n
  | .ble n => opcodeWord 0x83 n
  | .bg n => opcodeWord 0x84 n
  | .bge n => opcodeWord 0x85 n
  | .jmp n => opcodeWord 0x88 n
  | .go x => encodeR00 0x90 x
  | .call n => opcodeWord 0x91 n
  | .ret => opcodeWord 0x92 0
  | .int n => opcodeWord 0xA0 n
  | .inp x y z => encodeRRR 0xB0 x y z
  | .out x y z => encodeRRR 0xB8 x y z

/-- The bytes of an instruction in memory order (30_encoding.md R121). -/
def encodeBytes (i : Instr) : List Byte := bytesOfWord (encode i)

/-- The four bytes, from the lowest address, of the instruction whose bits are `w`, numbered as the opcode table
numbers them; bits from `nbits` on are 0. -/
def tableWordBytes (nbits w : Nat) : List Byte := bytesOfWord (BitVec.ofNat 32 (w % 2 ^ nbits))

/-- The instruction the decoder reads from the bits `w` of a row of the opcode table. -/
def decodeTableWord (nbits w : Nat) : Option Instr :=
  match decode (tableWordBytes nbits w) with
  | .ok (i, _) => some i
  | .error _ => none

end Sys2Proof
end

