-- ==== Sys2Proof/Machine/Flags.lean ====
section
/-! DEFINITION. The causes of automatic interrupts with their numbers and ERR bits, overflow, the compare result
and the branch conditions (10_state.md R57, R62, 60_exceptions.md R312, 42_arithmetic.md R202, 45_compare.md R260,
46_branch.md R272). There are no other flags (10_state.md R63). -/

namespace Sys2Proof.Machine

/-- The eight causes of an automatic interrupt (60_exceptions.md R312). -/
inductive Cause where
  /-- 1, "Division durch Null" -/
  | divisionByZero
  /-- 2, "Arithmetischer Überlauf" -/
  | overflow
  /-- 8, "Ungültiger Befehlscode" -/
  | invalidOpcode
  /-- 9, "Ungültige Registernummer" -/
  | invalidRegister
  /-- 16, "Ungültige Speicheradresse" -/
  | invalidAddress
  /-- 17, "Zugriffsverletzung" -/
  | accessViolation
  /-- 26, "Stack Überlauf" -/
  | stackOverflow
  /-- 32, "I/O Port existiert nicht" -/
  | noSuchPort
  deriving DecidableEq, Repr

/-- The interrupt number of a cause (60_exceptions.md R312). -/
def Cause.number : Cause → Fin 64
  | .divisionByZero => 1
  | .overflow => 2
  | .invalidOpcode => 8
  | .invalidRegister => 9
  | .invalidAddress => 16
  | .accessViolation => 17
  | .stackOverflow => 26
  | .noSuchPort => 32

/-- The ERR bit a cause sets, as a mask (10_state.md R57, 60_exceptions.md R320). -/
def Cause.errMask : Cause → Word
  | .divisionByZero => 0x00000001
  | .overflow => 0x00000002
  | .invalidOpcode => 0x00000020
  | .invalidRegister => 0x00000040
  | .invalidAddress => 0x00000100
  | .accessViolation => 0x00000200
  | .stackOverflow => 0x00000800
  | .noSuchPort => 0x00010000

/-- Does `r` fit 32 bits read signed? (42_arithmetic.md R202) -/
def fitsSigned (r : Int) : Bool := decide (-2 ^ 31 ≤ r) && decide (r ≤ 2 ^ 31 - 1)

/-- Does `r` fit 32 bits read unsigned? (42_arithmetic.md R202) -/
def fitsUnsigned (r : Int) : Bool := decide (0 ≤ r) && decide (r ≤ 2 ^ 32 - 1)

/-- The value CMPR gets from a compare of `a` with `b`: -1, 0 or +1 (45_compare.md R260). -/
def compareResult (a b : Int) : Word := if a < b then 0xFFFFFFFF else if a = b then 0 else 1

/-- The conditions of the six conditional branches, on the signed reading of CMPR (46_branch.md R272 to R278). -/
inductive Condition where
  | equal
  | notEqual
  | less
  | lessEqual
  | greater
  | greaterEqual
  deriving DecidableEq, Repr

/-- Does the condition hold of the content of CMPR? (46_branch.md R272) -/
def Condition.holds (c : Condition) (cmpr : Word) : Bool :=
  match c with
  | .equal => decide (cmpr.toInt = 0)
  | .notEqual => decide (cmpr.toInt ≠ 0)
  | .less => decide (cmpr.toInt < 0)
  | .lessEqual => decide (cmpr.toInt ≤ 0)
  | .greater => decide (0 < cmpr.toInt)
  | .greaterEqual => decide (0 ≤ cmpr.toInt)

end Sys2Proof.Machine
end

