-- ==== Sys2Proof/Config.lean ====
section
/-! DEFINITION. The implementation parameters that are fixed for a run (00_scope.md R7, R8, R13) and the free
values: what the spec leaves open and no proof may know (uninterpreted constants, no body). -/

namespace Sys2Proof

/-- The operating mode (00_scope.md R8, 60_exceptions.md R345). -/
inductive Mode where
  | normal
  | debug
  deriving DecidableEq, Repr

/-- Parameter `WP_WRITE`: what an instruction does whose destination register is write-protected
(10_state.md R38, D6). Log 4. -/
inductive WpWrite where
  /-- the write has no effect, the rest of the instruction takes place (the spec's choice) -/
  | discard
  /-- the instruction raises `Fault(9)` -/
  | int9
  deriving DecidableEq, Repr

/-- Parameter `OVERFLOW_DEST`: the destination after an arithmetic overflow (42_arithmetic.md R202, D7). Log 5. -/
inductive OverflowDest where
  /-- the destination keeps its value (the spec's choice) -/
  | unchanged
  /-- the destination gets the low 32 bits of the result before the interrupt is entered -/
  | wrapped
  deriving DecidableEq, Repr

/-- Parameter `IMM2_N0`: DIVI2 and MODI2 with an immediate of 0 (42_arithmetic.md R194, R201, D22). Log 6. -/
inductive Imm2N0 where
  /-- raise `Fault(1)` (the spec's choice) -/
  | int1
  /-- the result is 0 -/
  | result0
  deriving DecidableEq, Repr

/-- The parameters of a run: chosen at start-up, constant afterwards (00_scope.md R7, R8, R13). -/
structure Params where
  /-- `M`, the memory size in bytes (00_scope.md R7) -/
  memSize : Nat
  /-- `MODE` (00_scope.md R8) -/
  mode : Mode
  wpWrite : WpWrite
  overflowDest : OverflowDest
  imm2N0 : Imm2N0
  deriving DecidableEq, Repr

/-- The defaults of the source (`M = 2048`, normal mode) and the spec's choices of the open parameters.
DESIGN CHOICE (log 4, 5, 6): unsafe, a machine with the other choice differs. -/
def Params.defaults : Params :=
  { memSize := 2048, mode := .normal, wpWrite := .discard, overflowDest := .unchanged, imm2N0 := .int1 }

/-- What one signed division of -2^31 by -1 leaves (`DIV_OVERFLOW`, 42_arithmetic.md R203, D18): the values of
HI, LO and ERR, and the interrupt it raises if it raises one. -/
structure DivOverflow where
  hi : Word
  lo : Word
  err : Word
  interrupt : Option (Fin 64)
  deriving DecidableEq, Repr, Inhabited

/-- The FREE VALUE `DIV_OVERFLOW`, drawn anew at each use (70_reset_and_hazards.md R381): the argument is the
number of earlier uses. Log 7, safe: nothing constrains it. -/
opaque Config.divOverflow : Nat → DivOverflow

/-- The FREE answer of an input device past its script (49_io.md R303): port, number of earlier INs on that port,
number of bytes asked for; the first so many bytes of the list are delivered. Log 8, safe. -/
opaque Config.inputDevice : Fin 8 → Nat → Nat → List Byte

/-- The FREE answer of an output device past its script (49_io.md R303): port, number of earlier OUTs on that
port, the bytes offered; the number accepted, at most all of them. Log 8, safe. -/
opaque Config.outputDevice : Fin 8 → Nat → List Byte → Nat

end Sys2Proof
end

