-- ==== Sys2Proof/Machine/State.lean ====
section
/-! DEFINITION. The machine state, the reasons a step stops, the named updates of the state, and the state after
reset (10_state.md R30 to R67). -/

namespace Sys2Proof.Machine

/-- Why a step stops with a fault: not a normal end and not an interrupt of the machine. -/
inductive Fault where
  /-- Raised by the fetch of `step` when PC lies below 256, or when its four bytes straddle DS: the spec gives such
  a state no successor and asks for a fault (10_state.md R49, D12, U1). Safe. Log 11. -/
  | fetchOutsideCode
  deriving DecidableEq, Repr

/-- Why an instruction has no meaning. -/
inductive Refusal where
  /-- Answered by an arm of `exec` whose instruction has no meaning yet. Safe. No arm does. -/
  | notModelled (mnemonic : String)
  /-- Answered by POP with SP as its destination: two writes to SP in one instruction, given no meaning
  (41_load_store.md R168, U5). Safe. Log 12. -/
  | popIntoSp
  /-- Answered by IN and OUT with HE or SP as count register, given no meaning (49_io.md R301, R302, U5).
  Safe. Log 13. -/
  | countRegisterHeOrSp
  deriving DecidableEq, Repr

/-- The run state (10_state.md R66). -/
inductive RunState where
  | running
  | halted
  deriving DecidableEq, Repr

/-- An input port with its device (49_io.md R300, R303). Log 8. -/
structure InPort where
  /-- the bytes of the coming transfers, one list a transfer: the device ends a transfer at the end of its list -/
  script : List (List Byte)
  /-- the number of INs the port has answered: the index into the free oracle once the script is used up -/
  served : Nat
  deriving DecidableEq, Repr

/-- An output port with its device (49_io.md R300, R303). Log 8. -/
structure OutPort where
  /-- how many bytes the device will accept of the coming transfers -/
  script : List Nat
  /-- the number of OUTs the port has answered -/
  served : Nat
  /-- the bytes sent so far, in order -/
  trace : List Byte
  deriving DecidableEq, Repr

/-- The state of the machine (10_state.md R33, R42, R65, R66). ZERO has no field: it always reads 0 (R43). -/
structure State where
  /-- R1 to R32: `gpr[k]` is R(k+1) (10_state.md R39) -/
  gpr : Vector Word 32
  /-- PC, number 33 (R45) -/
  pc : Word
  /-- DS, number 34: start of the data segment (R50) -/
  ds : Word
  /-- HS, number 35: start of the heap (R51) -/
  hs : Word
  /-- HE, number 36: last byte of the heap (R52) -/
  he : Word
  /-- SP, number 37: top of the stack (R53) -/
  sp : Word
  /-- FP, number 38 (R54) -/
  fp : Word
  /-- IR, number 39: the instruction being executed (R55) -/
  ir : Word
  /-- STAT, number 40 (R56) -/
  stat : Word
  /-- ERR, number 41: the error bits (R57, R58) -/
  err : Word
  /-- HI, number 42 (R60) -/
  hi : Word
  /-- LO, number 43 (R61) -/
  lo : Word
  /-- CMPR, number 44: the result of a compare (R62) -/
  cmpr : Word
  /-- the memory (R65, 20_memory.md R90) -/
  mem : Memory
  /-- running or halted (R66) -/
  run : RunState
  /-- the parameters of the run: M, MODE and the open ones (R66, 00_scope.md R7, R8, R13) -/
  params : Params
  /-- input ports 0 to 7 (49_io.md R300) -/
  inPorts : Vector InPort 8
  /-- output ports 0 to 7 (49_io.md R300) -/
  outPorts : Vector OutPort 8
  /-- the model's own counter: uses of the free value DIV_OVERFLOW so far (log 7) -/
  divUses : Nat
  deriving DecidableEq, Repr

/-- R(k+1) gets `v`. -/
def State.setGpr (s : State) (k : Fin 32) (v : Word) : State := { s with gpr := s.gpr.set k.val v k.isLt }
/-- PC gets `v`, as the machine itself writes it (10_state.md R45). -/
def State.setPc (s : State) (v : Word) : State := { s with pc := v }
/-- IR gets `v`, as the fetch writes it (10_state.md R55). -/
def State.setIr (s : State) (v : Word) : State := { s with ir := v }
/-- HE gets `v`, unchecked. -/
def State.setHe (s : State) (v : Word) : State := { s with he := v }
/-- SP gets `v`, unchecked. -/
def State.setSp (s : State) (v : Word) : State := { s with sp := v }
/-- FP gets `v`. -/
def State.setFp (s : State) (v : Word) : State := { s with fp := v }
/-- STAT gets `v`. -/
def State.setStat (s : State) (v : Word) : State := { s with stat := v }
/-- ERR gets `v`. -/
def State.setErr (s : State) (v : Word) : State := { s with err := v }
/-- HI gets `v`. -/
def State.setHi (s : State) (v : Word) : State := { s with hi := v }
/-- LO gets `v`. -/
def State.setLo (s : State) (v : Word) : State := { s with lo := v }
/-- CMPR gets `v`. -/
def State.setCmpr (s : State) (v : Word) : State := { s with cmpr := v }
/-- Memory becomes `m`. -/
def State.setMem (s : State) (m : Memory) : State := { s with mem := m }
/-- The machine stops for good (60_exceptions.md R340). -/
def State.halt (s : State) : State := { s with run := .halted }
/-- Input port `p` becomes `q`. -/
def State.setInPort (s : State) (p : Fin 8) (q : InPort) : State :=
  { s with inPorts := s.inPorts.set p.val q p.isLt }
/-- Output port `p` becomes `q`. -/
def State.setOutPort (s : State) (p : Fin 8) (q : OutPort) : State :=
  { s with outPorts := s.outPorts.set p.val q p.isLt }
/-- One more use of the free value DIV_OVERFLOW (log 7). -/
def State.countDivUse (s : State) : State := { s with divUses := s.divUses + 1 }

/-- The machine right after start-up (10_state.md R67) with the defaults of 00_scope.md R7 and R8 and the empty
program, `CODE = []` and `DATA = []` (log 1): HE is HS as the spec suggests (log 3), the special registers without
a stated value are 0 as it suggests (log 2), the devices have nothing scheduled (log 8). -/
def State.reset : State :=
  { gpr := Vector.replicate 32 0
    pc := 256
    ds := 256
    hs := 256
    he := 256
    sp := 2048
    fp := 0
    ir := 0
    stat := 0
    err := 0
    hi := 0
    lo := 0
    cmpr := 0
    mem := []
    run := .running
    params := Params.defaults
    inPorts := Vector.replicate 8 { script := [], served := 0 }
    outPorts := Vector.replicate 8 { script := [], served := 0, trace := [] }
    divUses := 0 }

end Sys2Proof.Machine
end

