-- ==== Sys2Proof/Machine/Ops.lean ====
section
/-! DEFINITION. The operations every instruction is made of: reading and writing registers, the checks that raise an
automatic interrupt, memory stores, the stack, taking an interrupt and returning from one, fetching an
instruction's word (10_state.md R36 to R38, R46, 20_memory.md R83 to R87, 60_exceptions.md R320 to R325).

A check answers the cause it would raise, or none. An instruction is a list of checks in the order of
60_exceptions.md R321 and the state it leaves when none of them raises: every check comes before the first write
(R320, log 18, 19). -/

namespace Sys2Proof.Machine

/-- The outcome of a step of this machine. -/
abbrev Outcome := Host.Outcome State Fault Refusal

/-! ### Registers -/

/-- The content of a register as an operand (10_state.md R36): ZERO reads 0 (R43), and while an instruction
executes PC reads as the address after it (R47) and IR as its own word (R55). Log 20. -/
def State.readReg (s : State) (r : Reg) : Word :=
  match r with
  | .zero => 0
  | .gen k => s.gpr[k.val]
  | .pc => s.pc
  | .ds => s.ds
  | .hs => s.hs
  | .he => s.he
  | .sp => s.sp
  | .fp => s.fp
  | .ir => s.ir
  | .stat => s.stat
  | .err => s.err
  | .hi => s.hi
  | .lo => s.lo
  | .cmpr => s.cmpr

/-- The unsigned reading `u(x[r])` of a register. -/
def State.unsigned (s : State) (r : Reg) : Nat := (s.readReg r).toNat

/-- The signed reading `s(x[r])` of a register. -/
def State.signed (s : State) (r : Reg) : Int := (s.readReg r).toInt

/-- The check of the write of `v` to the destination register `r` (10_state.md R37, R38): a heap overflow for HE,
out of memory or a stack overflow for SP, and what `WP_WRITE` says for a write-protected register (log 4, 36). -/
def destCheck (s : State) (r : Reg) (v : Word) : Option Cause :=
  match r with
  | .zero | .pc | .ds | .hs | .ir =>
    match s.params.wpWrite with
    | .discard => none
    | .int9 => some .invalidRegister
  | .he => if s.sp.toNat ≤ v.toNat then some .accessViolation else none
  | .sp =>
    if s.params.memSize < v.toNat then some .accessViolation
    else if v.toNat ≤ s.he.toNat then some .stackOverflow else none
  | .gen _ | .fp | .stat | .err | .hi | .lo | .cmpr => none

/-- The write of `v` to the destination register `r` once its check has passed (10_state.md R37): a write-protected
register keeps its value (R38). -/
def State.putReg (s : State) (r : Reg) (v : Word) : State :=
  match r with
  | .zero | .pc | .ds | .hs | .ir => s
  | .gen k => s.setGpr k v
  | .he => s.setHe v
  | .sp => s.setSp v
  | .fp => s.setFp v
  | .stat => s.setStat v
  | .err => s.setErr v
  | .hi => s.setHi v
  | .lo => s.setLo v
  | .cmpr => s.setCmpr v

/-! ### Memory -/

/-- The check of a read of `n` bytes at `a`: all of them exist (20_memory.md R83, R84, R86). -/
def readCheck (s : State) (a n : Nat) : Option Cause :=
  if n ≠ 0 ∧ s.params.memSize < a + n then some .invalidAddress else none

/-- Does some byte of `a .. a+n-1` lie in the code segment `256 .. DS-1`? (20_memory.md R85) -/
def touchesCode (s : State) (a n : Nat) : Bool :=
  decide (n ≠ 0) && decide (256 < s.ds.toNat) && decide (a < s.ds.toNat) && decide (256 < a + n)

/-- The check of a write of `n` bytes at `a`: all of them exist, none is write-protected (20_memory.md R87). -/
def writeCheck (s : State) (a n : Nat) : Option Cause :=
  match readCheck s a n with
  | some c => some c
  | none => if touchesCode s a n then some .accessViolation else none

/-- Stores bytes at `a, a+1, ...` once the check has passed (20_memory.md R87). -/
def State.storeBytes (s : State) (a : Nat) (bs : List Byte) : State := s.setMem (s.mem.writeBytes a bs)

/-! ### Stack -/

/-- The check of a push: the stack does not reach the heap end, and the word can be stored (41_load_store.md R167).
`SP - 4 ≤ HE` is compared without subtraction, so it is on unbounded integers (log 21). -/
def pushCheck (s : State) : Option Cause :=
  if s.sp.toNat ≤ s.he.toNat + 4 then some .stackOverflow else writeCheck s (s.sp.toNat - 4) 4

/-- SP minus 4, and `v` stored there (41_load_store.md R167). -/
def State.pushWord (s : State) (v : Word) : State :=
  (s.storeBytes (s.sp.toNat - 4) (bytesOfWord v)).setSp (BitVec.ofNat 32 (s.sp.toNat - 4))

/-- The word on top of the stack (41_load_store.md R168). -/
def State.topWord (s : State) : Word := s.mem.readWord s.sp.toNat

/-- The check of a pop: the four bytes at SP exist (41_load_store.md R168). -/
def popCheck (s : State) : Option Cause := readCheck s s.sp.toNat 4

/-- SP plus 4 (41_load_store.md R168). -/
def State.dropWord (s : State) : State := s.setSp (BitVec.ofNat 32 (s.sp.toNat + 4))

/-! ### Control -/

/-- The check of a jump target: it lies in the code segment (46_branch.md R271, 47_subroutine.md R285). -/
def targetCheck (s : State) (t : Int) : Option Cause :=
  if t < 256 ∨ (s.ds.toNat : Int) - 1 < t then some .accessViolation else none

/-! ### Interrupts -/

/-- Entry `n` of the interrupt table: the word at address `4 * n` (20_memory.md R91). -/
def tableEntry (s : State) (n : Fin 64) : Word := s.mem.readWord (4 * n.val)

/-- Interrupt entry (60_exceptions.md R322): an empty table entry halts the machine; else PC is pushed and set to
the entry, which is not checked (R324, log 23); if the push is impossible the machine halts (R325, log 24). -/
def interrupt (n : Fin 64) (s : State) : State :=
  if tableEntry s n = 0 then s.halt
  else
    match pushCheck s with
    | some _ => s.halt
    | none => (s.pushWord s.pc).setPc (tableEntry s n)

/-- `raise Fault(n)` (60_exceptions.md R320): the ERR bit of the cause is set, other bits kept (10_state.md R58,
log 27), then its interrupt is entered. The state is the one before the instruction's writes. -/
def raiseFault (c : Cause) (s : State) : State := interrupt c.number (s.setErr (s.err ||| c.errMask))

/-- The first check that raises (60_exceptions.md R321). -/
def firstCause : List (Option Cause) → Option Cause
  | [] => none
  | some c :: _ => some c
  | none :: rest => firstCause rest

/-- An instruction: its checks in order and the state it leaves when none raises; when one does, the instruction
is abandoned and the interrupt taken (60_exceptions.md R320, R321). -/
@[inline] def complete (s : State) (checks : List (Option Cause)) (t : State) : Outcome :=
  match firstCause checks with
  | some c => .next (raiseFault c s)
  | none => .next t

/-- The result `v` written to the destination `r`, after the instruction's own checks (10_state.md R37). -/
@[inline] def writeResult (s : State) (checks : List (Option Cause)) (r : Reg) (v : Word) : Outcome :=
  complete s (checks ++ [destCheck s r v]) (s.putReg r v)

/-- Return from a subroutine or a handler (47_subroutine.md R287, 60_exceptions.md R330): the word on top of the
stack goes to PC, both checks before any write (log 32). -/
def returnFromStack (s : State) : Outcome :=
  complete s [popCheck s, targetCheck s s.topWord.toNat] (s.dropWord.setPc s.topWord)

/-! ### Fetch -/

/-- The word at PC (10_state.md R46, 20_memory.md R80). Log 51. -/
def fetchWord (s : State) : Word := s.mem.readWord s.pc.toNat

/-- The state in which the instruction fetched by `s` executes: IR holds its word, PC the address after it
(10_state.md R46, R47). -/
def afterFetch (s : State) : State := (s.setIr (fetchWord s)).setPc (s.pc + 4)

/-- What a fetch at PC does (10_state.md R46). -/
inductive FetchKind where
  /-- PC has reached the data segment: the program ends (R48) -/
  | endOfProgram
  /-- PC is below 256, or its four bytes straddle DS: no meaning (R49) -/
  | outsideCode
  /-- the four bytes at PC lie in the code segment -/
  | word
  deriving DecidableEq, Repr

/-- Which of the three holds of a state (10_state.md R46, R48, R49). -/
def fetchKind (s : State) : FetchKind :=
  if s.ds.toNat ≤ s.pc.toNat then .endOfProgram
  else if s.pc.toNat < 256 ∨ s.ds.toNat ≤ s.pc.toNat + 3 then .outsideCode
  else .word

/-- The automatic interrupt of a word that is no instruction (30_encoding.md R134, R135). -/
def rejectCause : DecodeReject → Cause
  | .invalidOpcode => .invalidOpcode
  | .invalidRegister => .invalidRegister

/-- Places the bytes of one instruction at PC and ends the code segment behind them if it ended before: what a load
of that instruction does that its fetch needs (log 1). -/
def placeInstruction (s : State) (bs : List Byte) : State :=
  { s with
    mem := s.mem.writeBytes s.pc.toNat bs
    ds := if s.ds.toNat < s.pc.toNat + 4 then BitVec.ofNat 32 (s.pc.toNat + 4) else s.ds
    run := .running }

end Sys2Proof.Machine
end

