-- ==== Sys2Proof/Machine/Operands.lean ====
section
/-! DEFINITION. How operands are read: the extensions of immediates, shift amounts, shifts and rotations as
functions of value and amount, branch targets, the port number (00_scope.md R16, 30_encoding.md R130,
44_logic_shift_rotate.md R240, R251, 46_branch.md R270, 49_io.md R301). -/

namespace Sys2Proof.Machine

/-- `sext_8(N)` as an integer (00_scope.md R16, 30_encoding.md R130). Log 49. -/
def sext8 (n : BitVec 8) : Int := n.toInt
/-- `sext_16(N)` as an integer. -/
def sext16 (n : BitVec 16) : Int := n.toInt
/-- `sext_24(N)` as an integer (46_branch.md R270, log 39). -/
def sext24 (n : BitVec 24) : Int := n.toInt
/-- `zext_8(N)` as a word (43_logic_bitwise.md R220). -/
def zext8 (n : BitVec 8) : Word := BitVec.ofNat 32 n.toNat
/-- `zext_16(N)` as a word (43_logic_bitwise.md R228). -/
def zext16 (n : BitVec 16) : Word := BitVec.ofNat 32 n.toNat

/-- Left shift by any amount: zeros from the right, 0 from 32 on (44_logic_shift_rotate.md R241, R251). Log 29. -/
def shiftLeft (v : Word) (n : Nat) : Word := if 32 ≤ n then 0 else v <<< n
/-- Logical right shift by any amount: zeros from the left, 0 from 32 on (44_logic_shift_rotate.md R243, R251). Log 29. -/
def shiftRight (v : Word) (n : Nat) : Word := if 32 ≤ n then 0 else v >>> n
/-- Arithmetic right shift by any amount: copies of bit 31 from the left (44_logic_shift_rotate.md R245, R251). Log 29. -/
def shiftRightArith (v : Word) (n : Nat) : Word :=
  if 32 ≤ n then (if v.msb then 0xFFFFFFFF else 0) else v.sshiftRight n
/-- Rotation to the left by the amount modulo 32 (44_logic_shift_rotate.md R247, R251). -/
def rotateLeft (v : Word) (n : Nat) : Word :=
  if n % 32 = 0 then v else (v <<< (n % 32)) ||| (v >>> (32 - n % 32))
/-- Rotation to the right by the amount modulo 32 (44_logic_shift_rotate.md R249, R251). -/
def rotateRight (v : Word) (n : Nat) : Word :=
  if n % 32 = 0 then v else (v >>> (n % 32)) ||| (v <<< (32 - n % 32))

/-- The target of a relative branch, `(A + 4) + 4 * n - 4` on unbounded integers, with PC = A + 4 (46_branch.md R270,
log 21). -/
def branchTarget (s : State) (n : BitVec 24) : Int := (s.pc.toNat : Int) + 4 * sext24 n - 4

/-- The check of the port number in register `r`: ports are 0 to 7 (49_io.md R301). -/
def portCheck (s : State) (r : Reg) : Option Cause :=
  if 7 < s.unsigned r then some .noSuchPort else none

/-- The port named by register `r`; meaningful once `portCheck` has passed. -/
def portOf (s : State) (r : Reg) : Fin 8 := Fin.ofNat 8 (s.unsigned r)

end Sys2Proof.Machine
end

