-- ==== Sys2Proof/Machine/Arithmetic.lean ====
section
/-! DEFINITION. Arithmetic instructions: ADD to MODI2 (42_arithmetic.md R180 to R206). -/

namespace Sys2Proof.Machine

/-! ### Shared operations -/

/-- The state whose interrupt 2 an overflow takes: the destination unchanged, or under `OVERFLOW_DEST = wrapped`
with the low 32 bits of the result, unless its own check would raise (42_arithmetic.md R202, log 5). Where the destination
is ERR, R202 and D7 do not say whether it is written before or after its bit 1 is set: the model writes first and then sets
the bit in what was written (DESIGN CHOICE, log 5). -/
def overflowBase (s : State) (x : Reg) (v : Word) : State :=
  match s.params.overflowDest with
  | .unchanged => s
  | .wrapped =>
    match destCheck s x v with
    | none => s.putReg x v
    | some _ => s

/-- The result `r` of an addition or subtraction, written if it fits, else `Fault(2)` (42_arithmetic.md R202). `raiseFault`
sets ERR bit 1 in the state that `overflowBase` leaves, so after the write of a wrapped result (DESIGN CHOICE for ERR as
destination, log 5). -/
def arithmeticResult (s : State) (fits : Bool) (x : Reg) (r : Int) : Outcome :=
  if fits then writeResult s [] x (w32 r) else .next (raiseFault .overflow (overflowBase s x (w32 r)))

/-- HI and LO get the halves of a 64-bit product, as a two's complement pattern (42_arithmetic.md R204, log 47). -/
def State.putProduct (s : State) (p : Int) : State :=
  (s.setHi ((BitVec.ofInt 64 p).extractLsb' 32 32)).setLo ((BitVec.ofInt 64 p).extractLsb' 0 32)

/-- The check of a divisor (42_arithmetic.md R203). -/
def divisorCheck (b : Int) : Option Cause := if b = 0 then some .divisionByZero else none

/-- The remainder of the division truncating toward zero (42_arithmetic.md R203, log 41). -/
def remainder (a b : Int) : Int := a - b * a.tdiv b

/-- HI gets the quotient truncated toward zero and LO the remainder (42_arithmetic.md R203). -/
def State.putQuotient (s : State) (a b : Int) : State := (s.setHi (w32 (a.tdiv b))).setLo (w32 (remainder a b))

/-- What a division of -2^31 by -1 leaves: nothing may be assumed of HI, LO, ERR or an interrupt
(42_arithmetic.md R203, D18, U3). Free value, log 7. -/
def divideOverflow (s : State) : State :=
  match (Config.divOverflow s.divUses).interrupt with
  | none =>
    (((s.setHi (Config.divOverflow s.divUses).hi).setLo (Config.divOverflow s.divUses).lo).setErr
      (Config.divOverflow s.divUses).err).countDivUse
  | some n =>
    interrupt n (((s.setHi (Config.divOverflow s.divUses).hi).setLo (Config.divOverflow s.divUses).lo).setErr
      (Config.divOverflow s.divUses).err).countDivUse

/-- Signed division of `a` by `b` (42_arithmetic.md R191, R193). -/
def divideSigned (s : State) (a b : Int) : Outcome :=
  if a = -2 ^ 31 ∧ b = -1 then .next (divideOverflow s)
  else complete s [divisorCheck b] (s.putQuotient a b)

/-- The check of an immediate dividend of 0 in DIVI2 and MODI2: parameter `IMM2_N0` (42_arithmetic.md R194, R201,
log 6). -/
def dividendCheck (s : State) (a : Int) : Option Cause :=
  match s.params.imm2N0 with
  | .int1 => if a = 0 then some .divisionByZero else none
  | .result0 => none

/-! ### Addition and subtraction -/

/-- ADD X, Y, Z (42_arithmetic.md R181). -/
def execAdd (x y z : Reg) (s : State) : Outcome :=
  arithmeticResult s (fitsSigned (s.signed y + s.signed z)) x (s.signed y + s.signed z)

/-- ADDU X, Y, Z (42_arithmetic.md R182). -/
def execAddu (x y z : Reg) (s : State) : Outcome :=
  arithmeticResult s (fitsUnsigned ((s.unsigned y : Int) + s.unsigned z)) x ((s.unsigned y : Int) + s.unsigned z)

/-- ADDI X, Y, N (42_arithmetic.md R183). -/
def execAddi (x y : Reg) (n : BitVec 8) (s : State) : Outcome :=
  arithmeticResult s (fitsSigned (s.signed y + sext8 n)) x (s.signed y + sext8 n)

/-- SUB X, Y, Z (42_arithmetic.md R184). -/
def execSub (x y z : Reg) (s : State) : Outcome :=
  arithmeticResult s (fitsSigned (s.signed y - s.signed z)) x (s.signed y - s.signed z)

/-- SUBU X, Y, Z (42_arithmetic.md R185). -/
def execSubu (x y z : Reg) (s : State) : Outcome :=
  arithmeticResult s (fitsUnsigned ((s.unsigned y : Int) - s.unsigned z)) x ((s.unsigned y : Int) - s.unsigned z)

/-- SUBI X, Y, N (42_arithmetic.md R186); N is read signed (log 40). -/
def execSubi (x y : Reg) (n : BitVec 8) (s : State) : Outcome :=
  arithmeticResult s (fitsSigned (s.signed y - sext8 n)) x (s.signed y - sext8 n)

/-- SUBI2 X, Y, N (42_arithmetic.md R187); N is read signed (log 40). -/
def execSubi2 (x y : Reg) (n : BitVec 8) (s : State) : Outcome :=
  arithmeticResult s (fitsSigned (sext8 n - s.signed y)) x (sext8 n - s.signed y)

/-- INC X (42_arithmetic.md R197). -/
def execInc (x : Reg) (s : State) : Outcome :=
  arithmeticResult s (fitsSigned (s.signed x + 1)) x (s.signed x + 1)

/-- DEC X (42_arithmetic.md R198). -/
def execDec (x : Reg) (s : State) : Outcome :=
  arithmeticResult s (fitsSigned (s.signed x - 1)) x (s.signed x - 1)

/-! ### Multiplication and division -/

/-- MUL X, Y (42_arithmetic.md R188). -/
def execMul (x y : Reg) (s : State) : Outcome := complete s [] (s.putProduct (s.signed x * s.signed y))

/-- MULU X, Y (42_arithmetic.md R189). -/
def execMulu (x y : Reg) (s : State) : Outcome :=
  complete s [] (s.putProduct ((s.unsigned x : Int) * s.unsigned y))

/-- MULI X, N (42_arithmetic.md R190). -/
def execMuli (x : Reg) (n : BitVec 16) (s : State) : Outcome := complete s [] (s.putProduct (s.signed x * sext16 n))

/-- DIV X, Y (42_arithmetic.md R191). -/
def execDiv (x y : Reg) (s : State) : Outcome := divideSigned s (s.signed x) (s.signed y)

/-- DIVU X, Y (42_arithmetic.md R192). -/
def execDivu (x y : Reg) (s : State) : Outcome :=
  complete s [divisorCheck (s.unsigned y)] (s.putQuotient (s.unsigned x) (s.unsigned y))

/-- DIVI X, N (42_arithmetic.md R193). -/
def execDivi (x : Reg) (n : BitVec 16) (s : State) : Outcome := divideSigned s (s.signed x) (sext16 n)

/-- DIVI2 X, N (42_arithmetic.md R194): the immediate is the dividend; no quotient overflow is possible. -/
def execDivi2 (x : Reg) (n : BitVec 16) (s : State) : Outcome :=
  complete s [divisorCheck (s.signed x), dividendCheck s (sext16 n)] (s.putQuotient (sext16 n) (s.signed x))

/-! ### Sign and remainder -/

/-- ABS X, Y (42_arithmetic.md R195): |s| modulo 2^31, so -2^31 gives 0 (log 28). -/
def execAbs (x y : Reg) (s : State) : Outcome :=
  writeResult s [] x (BitVec.ofNat 32 ((s.signed y).natAbs % 2 ^ 31))

/-- NEG X, Y (42_arithmetic.md R196): the two's complement, so -2^31 gives itself (log 28). -/
def execNeg (x y : Reg) (s : State) : Outcome := writeResult s [] x (w32 (-s.signed y))

/-- MOD X, Y, Z (42_arithmetic.md R199). -/
def execMod (x y z : Reg) (s : State) : Outcome :=
  writeResult s [divisorCheck (s.signed z)] x (w32 (remainder (s.signed y) (s.signed z)))

/-- MODI X, Y, N (42_arithmetic.md R200); N is read unsigned. -/
def execModi (x y : Reg) (n : BitVec 8) (s : State) : Outcome :=
  writeResult s [divisorCheck n.toNat] x (w32 (remainder (s.signed y) n.toNat))

/-- MODI2 X, Y, N (42_arithmetic.md R201): the immediate is the dividend, read unsigned. -/
def execModi2 (x y : Reg) (n : BitVec 8) (s : State) : Outcome :=
  writeResult s [divisorCheck (s.signed y), dividendCheck s n.toNat] x (w32 (remainder n.toNat (s.signed y)))

end Sys2Proof.Machine
end

