-- ==== Sys2Proof/Machine/Bitwise.lean ====
section
/-! DEFINITION. Bitwise instructions: AND to NORI (43_logic_bitwise.md R220 to R233). -/

namespace Sys2Proof.Machine

/-- AND X, Y, Z (43_logic_bitwise.md R221). -/
def execAnd (x y z : Reg) (s : State) : Outcome := writeResult s [] x (s.readReg y &&& s.readReg z)

/-- ANDI X, Y, N (43_logic_bitwise.md R222). -/
def execAndi (x y : Reg) (n : BitVec 8) (s : State) : Outcome := writeResult s [] x (s.readReg y &&& zext8 n)

/-- OR X, Y, Z (43_logic_bitwise.md R223). -/
def execOr (x y z : Reg) (s : State) : Outcome := writeResult s [] x (s.readReg y ||| s.readReg z)

/-- ORI X, Y, N (43_logic_bitwise.md R224). -/
def execOri (x y : Reg) (n : BitVec 8) (s : State) : Outcome := writeResult s [] x (s.readReg y ||| zext8 n)

/-- XOR X, Y, Z (43_logic_bitwise.md R225). -/
def execXor (x y z : Reg) (s : State) : Outcome := writeResult s [] x (s.readReg y ^^^ s.readReg z)

/-- XORI X, Y, N (43_logic_bitwise.md R226). -/
def execXori (x y : Reg) (n : BitVec 8) (s : State) : Outcome := writeResult s [] x (s.readReg y ^^^ zext8 n)

/-- NOT X, Y (43_logic_bitwise.md R227). -/
def execNot (x y : Reg) (s : State) : Outcome := writeResult s [] x (~~~s.readReg y)

/-- NOTI X, N (43_logic_bitwise.md R228): all 16 bits of N, zero-extended (log 30). -/
def execNoti (x : Reg) (n : BitVec 16) (s : State) : Outcome := writeResult s [] x (~~~zext16 n)

/-- NAND X, Y, Z (43_logic_bitwise.md R229). -/
def execNand (x y z : Reg) (s : State) : Outcome := writeResult s [] x (~~~(s.readReg y &&& s.readReg z))

/-- NANDI X, Y, N (43_logic_bitwise.md R230). -/
def execNandi (x y : Reg) (n : BitVec 8) (s : State) : Outcome := writeResult s [] x (~~~(s.readReg y &&& zext8 n))

/-- NOR X, Y, Z (43_logic_bitwise.md R231). -/
def execNor (x y z : Reg) (s : State) : Outcome := writeResult s [] x (~~~(s.readReg y ||| s.readReg z))

/-- NORI X, Y, N (43_logic_bitwise.md R232). -/
def execNori (x y : Reg) (n : BitVec 8) (s : State) : Outcome := writeResult s [] x (~~~(s.readReg y ||| zext8 n))

end Sys2Proof.Machine
end

