-- ==== Sys2Proof/Machine/Branch.lean ====
section
/-! DEFINITION. Branch instructions: BE to BGE, JMP (46_branch.md R270 to R280). -/

namespace Sys2Proof.Machine

/-- A taken relative branch by `n` instructions (46_branch.md R270, R271). -/
def jumpRelative (s : State) (n : BitVec 24) : Outcome :=
  complete s [targetCheck s (branchTarget s n)] (s.setPc (w32 (branchTarget s n)))

/-- A conditional branch: taken when its condition holds of CMPR, else nothing happens and no target is checked
(46_branch.md R271, R272, log 31). -/
def branchIf (c : Condition) (s : State) (n : BitVec 24) : Outcome :=
  if c.holds s.cmpr then jumpRelative s n else complete s [] s

/-- BE N (46_branch.md R273). -/
def execBe (n : BitVec 24) (s : State) : Outcome := branchIf .equal s n

/-- BNE N (46_branch.md R274). -/
def execBne (n : BitVec 24) (s : State) : Outcome := branchIf .notEqual s n

/-- BL N (46_branch.md R275). -/
def execBl (n : BitVec 24) (s : State) : Outcome := branchIf .less s n

/-- BLE N (46_branch.md R276). -/
def execBle (n : BitVec 24) (s : State) : Outcome := branchIf .lessEqual s n

/-- BG N (46_branch.md R277). -/
def execBg (n : BitVec 24) (s : State) : Outcome := branchIf .greater s n

/-- BGE N (46_branch.md R278). -/
def execBge (n : BitVec 24) (s : State) : Outcome := branchIf .greaterEqual s n

/-- JMP N (46_branch.md R279). -/
def execJmp (n : BitVec 24) (s : State) : Outcome := jumpRelative s n

end Sys2Proof.Machine
end

