-- ==== Sys2Proof/Machine/Compare.lean ====
section
/-! DEFINITION. Compare instructions: CMP, CMPU, CMPI (45_compare.md R260 to R264). CMPR alone is written (log 42). -/

namespace Sys2Proof.Machine

/-- CMP X, Y (45_compare.md R261). -/
def execCmp (x y : Reg) (s : State) : Outcome := complete s [] (s.setCmpr (compareResult (s.signed x) (s.signed y)))

/-- CMPU X, Y (45_compare.md R262). -/
def execCmpu (x y : Reg) (s : State) : Outcome :=
  complete s [] (s.setCmpr (compareResult (s.unsigned x) (s.unsigned y)))

/-- CMPI X, N (45_compare.md R263). -/
def execCmpi (x : Reg) (n : BitVec 16) (s : State) : Outcome :=
  complete s [] (s.setCmpr (compareResult (s.signed x) (sext16 n)))

end Sys2Proof.Machine
end

