-- ==== Sys2Proof/Machine/Control.lean ====
section
/-! DEFINITION. Control instructions: NOP and EOP (40_control.md R150, R151). -/

namespace Sys2Proof.Machine

/-- NOP (40_control.md R150): nothing beyond the fetch. -/
def execNop (s : State) : Outcome := complete s [] s

/-- EOP (40_control.md R151): the machine stops for good, nothing else changes. -/
def execEop (s : State) : Outcome := complete s [] s.halt

end Sys2Proof.Machine
end

