-- ==== Sys2Proof/Machine/Io.lean ====
section
/-! DEFINITION. I/O instructions and the I/O unit: IN, OUT (49_io.md R300 to R304). The devices are an oracle: the port's
script, then a free value (R303, log 8). The core waits, so a transfer is part of the step (10_state.md R31). -/

namespace Sys2Proof.Machine

/-- The bytes the device of input port `p` delivers when asked for `n` bytes: at most `n` (49_io.md R303). -/
def inputAnswer (s : State) (p : Fin 8) (n : Nat) : List Byte :=
  match s.inPorts[p.val].script with
  | bytes :: _ => bytes.take n
  | [] => if n = 0 then [] else (Config.inputDevice p s.inPorts[p.val].served n).take n

/-- What is left of a script of transfers after `n` bytes of the current one: the transfer goes on if bytes of it
remain. -/
def restOfScript (n : Nat) : List (List Byte) → List (List Byte)
  | [] => []
  | bytes :: later =>
    match bytes.drop n with
    | [] => later
    | rest => rest :: later

/-- The device of input port `p` has answered a request for `n` bytes; a request for 0 bytes takes nothing from it. -/
def State.takeInput (s : State) (p : Fin 8) (n : Nat) : State :=
  if n = 0 then s
  else
    s.setInPort p
      { script := restOfScript n s.inPorts[p.val].script, served := s.inPorts[p.val].served + 1 }

/-- How many of the bytes offered the device of output port `p` accepts: at most all (49_io.md R303). -/
def outputAnswer (s : State) (p : Fin 8) (offered : List Byte) : Nat :=
  match offered with
  | [] => 0
  | b :: bs =>
    match s.outPorts[p.val].script with
    | k :: _ => min k (b :: bs).length
    | [] => min (Config.outputDevice p s.outPorts[p.val].served (b :: bs)) (b :: bs).length

/-- The device of output port `p` has been offered bytes: those it accepts are appended to its trace. -/
def State.giveOutput (s : State) (p : Fin 8) (offered : List Byte) : State :=
  match offered with
  | [] => s
  | b :: bs =>
    s.setOutPort p
      { script := s.outPorts[p.val].script.tail
        served := s.outPorts[p.val].served + 1
        trace := s.outPorts[p.val].trace ++ (b :: bs).take (outputAnswer s p (b :: bs)) }

/-- Is the count register one whose checked write could fail after the transfer? Such an IN or OUT is given no
meaning (49_io.md R301, R302, U5, log 13). -/
def countRegisterRefused (y : Reg) : Bool := y == .he || y == .sp

/-- IN A, N, P (49_io.md R301): port, range and protection are checked before the transfer, on the whole requested
range (log 33); bytes beyond the count delivered keep their values (log 34). -/
def execInp (x y z : Reg) (s : State) : Outcome :=
  if countRegisterRefused y then .refused .countRegisterHeOrSp
  else
    complete s
      [portCheck s z, writeCheck s (s.unsigned x) (s.unsigned y),
        destCheck s y (BitVec.ofNat 32 (inputAnswer s (portOf s z) (s.unsigned y)).length)]
      (((s.takeInput (portOf s z) (s.unsigned y)).storeBytes (s.unsigned x)
          (inputAnswer s (portOf s z) (s.unsigned y))).putReg y
        (BitVec.ofNat 32 (inputAnswer s (portOf s z) (s.unsigned y)).length))

/-- OUT A, N, P (49_io.md R302): port and range are checked before the transfer; memory is only read (log 33). -/
def execOut (x y z : Reg) (s : State) : Outcome :=
  if countRegisterRefused y then .refused .countRegisterHeOrSp
  else
    complete s
      [portCheck s z, readCheck s (s.unsigned x) (s.unsigned y),
        destCheck s y
          (BitVec.ofNat 32 (outputAnswer s (portOf s z) (s.mem.readBytes (s.unsigned x) (s.unsigned y))))]
      ((s.giveOutput (portOf s z) (s.mem.readBytes (s.unsigned x) (s.unsigned y))).putReg y
        (BitVec.ofNat 32 (outputAnswer s (portOf s z) (s.mem.readBytes (s.unsigned x) (s.unsigned y)))))

end Sys2Proof.Machine
end

