-- ==== Sys2Proof/Machine/LoadStore.lean ====
section
/-! DEFINITION. Load and store instructions: SET, CP, LB, LW, SB, SW, PUSH, POP (41_load_store.md R160 to R170).
The address is the whole content of a register, read unsigned, with no alignment (R160, log 21, 22). -/

namespace Sys2Proof.Machine

/-- SET X, N (41_load_store.md R161). -/
def execSet (x : Reg) (n : BitVec 16) (s : State) : Outcome := writeResult s [] x (w32 (sext16 n))

/-- CP X, Y (41_load_store.md R162). -/
def execCp (x y : Reg) (s : State) : Outcome := writeResult s [] x (s.readReg y)

/-- The word `v` with its low byte replaced by `b` (41_load_store.md R163). -/
def replaceLowByte (v : Word) (b : Byte) : Word := BitVec.ofNat 32 (v.toNat / 256 * 256 + b.toNat)

/-- LB X, Y (41_load_store.md R163): only the low byte of X changes. -/
def execLb (x y : Reg) (s : State) : Outcome :=
  writeResult s [readCheck s (s.unsigned y) 1] x (replaceLowByte (s.readReg x) (s.mem.read (s.unsigned y)))

/-- LW X, Y (41_load_store.md R164). -/
def execLw (x y : Reg) (s : State) : Outcome :=
  writeResult s [readCheck s (s.unsigned y) 4] x (s.mem.readWord (s.unsigned y))

/-- SB X, Y (41_load_store.md R165): the low byte of X goes to the address in Y. -/
def execSb (x y : Reg) (s : State) : Outcome :=
  complete s [writeCheck s (s.unsigned y) 1] (s.storeBytes (s.unsigned y) [(s.readReg x).extractLsb' 0 8])

/-- SW X, Y (41_load_store.md R166). -/
def execSw (x y : Reg) (s : State) : Outcome :=
  complete s [writeCheck s (s.unsigned y) 4] (s.storeBytes (s.unsigned y) (bytesOfWord (s.readReg x)))

/-- PUSH X (41_load_store.md R167): the value is read before SP changes, so PUSH SP pushes the old SP (log 46). -/
def execPush (x : Reg) (s : State) : Outcome := complete s [pushCheck s] (s.pushWord (s.readReg x))

/-- POP X (41_load_store.md R168): X is written before SP moves, so POP HE is checked against the SP before the
increment. POP SP is given no meaning (U5, log 12). -/
def execPop (x : Reg) (s : State) : Outcome :=
  if x = .sp then .refused .popIntoSp
  else complete s [popCheck s, destCheck s x s.topWord] (s.putReg x s.topWord).dropWord

end Sys2Proof.Machine
end

