-- ==== Sys2Proof/Machine/Shift.lean ====
section
/-! DEFINITION. Shift and rotate instructions: SHL to ROTRI (44_logic_shift_rotate.md R240 to R252). -/

namespace Sys2Proof.Machine

/-- SHL X, Y, Z (44_logic_shift_rotate.md R241): the amount is the whole content of Z, unsigned. -/
def execShl (x y z : Reg) (s : State) : Outcome := writeResult s [] x (shiftLeft (s.readReg y) (s.unsigned z))

/-- SHLI X, Y, N (44_logic_shift_rotate.md R242): the amount is N, unsigned. -/
def execShli (x y : Reg) (n : BitVec 8) (s : State) : Outcome := writeResult s [] x (shiftLeft (s.readReg y) n.toNat)

/-- SHR X, Y, Z (44_logic_shift_rotate.md R243): the amount is the whole content of Z, unsigned. -/
def execShr (x y z : Reg) (s : State) : Outcome := writeResult s [] x (shiftRight (s.readReg y) (s.unsigned z))

/-- SHRI X, Y, N (44_logic_shift_rotate.md R244): the amount is N, unsigned. -/
def execShri (x y : Reg) (n : BitVec 8) (s : State) : Outcome := writeResult s [] x (shiftRight (s.readReg y) n.toNat)

/-- SHRA X, Y, Z (44_logic_shift_rotate.md R245): the amount is the whole content of Z, unsigned. -/
def execShra (x y z : Reg) (s : State) : Outcome := writeResult s [] x (shiftRightArith (s.readReg y) (s.unsigned z))

/-- SHRAI X, Y, N (44_logic_shift_rotate.md R246): the amount is N, unsigned. -/
def execShrai (x y : Reg) (n : BitVec 8) (s : State) : Outcome := writeResult s [] x (shiftRightArith (s.readReg y) n.toNat)

/-- ROTL X, Y, Z (44_logic_shift_rotate.md R247): the amount is the whole content of Z, unsigned. -/
def execRotl (x y z : Reg) (s : State) : Outcome := writeResult s [] x (rotateLeft (s.readReg y) (s.unsigned z))

/-- ROTLI X, Y, N (44_logic_shift_rotate.md R248): the amount is N, unsigned. -/
def execRotli (x y : Reg) (n : BitVec 8) (s : State) : Outcome := writeResult s [] x (rotateLeft (s.readReg y) n.toNat)

/-- ROTR X, Y, Z (44_logic_shift_rotate.md R249): the amount is the whole content of Z, unsigned. -/
def execRotr (x y z : Reg) (s : State) : Outcome := writeResult s [] x (rotateRight (s.readReg y) (s.unsigned z))

/-- ROTRI X, Y, N (44_logic_shift_rotate.md R250): the amount is N, unsigned. -/
def execRotri (x y : Reg) (n : BitVec 8) (s : State) : Outcome := writeResult s [] x (rotateRight (s.readReg y) n.toNat)

end Sys2Proof.Machine
end

