-- ==== Sys2Proof/Machine/Subroutine.lean ====
section
/-! DEFINITION. Subroutine instructions: GO, CALL, RET (47_subroutine.md R285 to R288). -/

namespace Sys2Proof.Machine

/-- GO X (47_subroutine.md R285): an absolute jump, its target checked for the code segment only. -/
def execGo (x : Reg) (s : State) : Outcome := complete s [targetCheck s (s.unsigned x)] (s.setPc (s.readReg x))

/-- CALL N (47_subroutine.md R286): all checks before the push (log 32). -/
def execCall (n : BitVec 24) (s : State) : Outcome :=
  complete s [pushCheck s, targetCheck s (branchTarget s n)] ((s.pushWord s.pc).setPc (w32 (branchTarget s n)))

/-- RET (47_subroutine.md R287). -/
def execRet (s : State) : Outcome := returnFromStack s

end Sys2Proof.Machine
end

