-- ==== Sys2Proof/Machine/System.lean ====
section
/-! DEFINITION. System instructions: INT (48_system.md R295 to R297). -/

namespace Sys2Proof.Machine

/-- The interrupt an INT requests: its number if there is such an interrupt, else 0 (48_system.md R295, log 25). -/
def requestedInterrupt (n : BitVec 24) : Fin 64 := if h : n.toNat < 64 then ⟨n.toNat, h⟩ else 0

/-- INT N (48_system.md R295): the interrupt is entered with ERR untouched (log 26). -/
def execInt (n : BitVec 24) (s : State) : Outcome := complete s [] (interrupt (requestedInterrupt n) s)

end Sys2Proof.Machine
end

