-- ==== Sys2Proof/Machine/Step.lean ====
section
/-! DEFINITION. The step of the core, one instruction cycle (10_state.md R46), and where the host places an
instruction so that the next step runs it (log 1). -/

namespace Sys2Proof.Machine

/-- One step (10_state.md R46): a halted machine stays as it is (R66, 60_exceptions.md R340, log 10); a running one
fetches, decodes and executes one instruction, or ends the program (R48), or takes the interrupt of a word that is
no instruction (30_encoding.md R134, R135), or faults where the fetch has no meaning (R49, log 11). -/
def step (s : State) : Host.Outcome State Fault Refusal :=
  match s.run with
  | .halted => .next s
  | .running =>
    match fetchKind s with
    | .endOfProgram => .next s.halt
    | .outsideCode => .fault .fetchOutsideCode
    | .word =>
      match decodeWord (fetchWord s) with
      | .ok i => exec i (afterFetch s)
      | .error why => .next (raiseFault (rejectCause why) (afterFetch s))

/-- The state with one instruction loaded where the next step fetches (log 1). -/
def State.withFetchWord (s : State) (nbits w : Nat) : State := placeInstruction s (tableWordBytes nbits w)

end Sys2Proof.Machine
end

