-- ==== Sys2Proof/Machine/Schedule.lean ====
section
/-! DEFINITION. The two operating modes (60_exceptions.md R345): in normal mode the machine steps by itself, in debug mode
once for each signal of the host (log 14). -/

namespace Sys2Proof.Machine

/-- One turn of the scheduler: `signal` says whether the host gives its external signal now (60_exceptions.md R345).
A machine in debug mode stands still without it; in normal mode the signal has no meaning. -/
def hostTick (signal : Bool) (s : State) : Outcome :=
  match s.params.mode with
  | .normal => step s
  | .debug => if signal then step s else .next s

/-- The turns of the scheduler for a list of signals, stopping at the first fault or refusal. -/
def hostTicks : List Bool → State → Outcome
  | [], s => .next s
  | signal :: later, s =>
    match hostTick signal s with
    | .next t => hostTicks later t
    | .fault why => .fault why
    | .refused why => .refused why

end Sys2Proof.Machine
end

