-- ==== Sys2Proof/Machine/StartUp.lean ====
section
/-! DEFINITION. Start-up, the machine's only reset (70_reset_and_hazards.md R360 to R365): from the inputs of the host and
the open parameters of the implementation to the state before the first fetch, or a refusal (log 16). -/

namespace Sys2Proof.Machine

/-- What start-up is given (70_reset_and_hazards.md R361, 00_scope.md R7 to R13). -/
structure StartInputs where
  /-- `M` -/
  memSize : Nat
  /-- `MODE` -/
  mode : Mode
  /-- the instruction bytes -/
  code : List Byte
  /-- the data bytes -/
  data : List Byte
  /-- `HE_RESET` (log 3) -/
  heReset : Word
  /-- `SPECIAL_RESET`, one value a register (log 2) -/
  fp : Word
  ir : Word
  stat : Word
  err : Word
  hi : Word
  lo : Word
  cmpr : Word
  /-- the open parameters of the run (log 4, 5, 6) -/
  wpWrite : WpWrite
  overflowDest : OverflowDest
  imm2N0 : Imm2N0
  /-- the devices (log 8) -/
  inPorts : Vector InPort 8
  outPorts : Vector OutPort 8
  deriving DecidableEq, Repr

/-- A program with the defaults of the source and the spec's choices of the open values; it needs `HS < M`. -/
def StartInputs.ofProgram (code data : List Byte) : StartInputs :=
  { memSize := 2048
    mode := .normal
    code := code
    data := data
    heReset := BitVec.ofNat 32 (256 + code.length + data.length)
    fp := 0
    ir := 0
    stat := 0
    err := 0
    hi := 0
    lo := 0
    cmpr := 0
    wpWrite := .discard
    overflowDest := .unchanged
    imm2N0 := .int1
    inPorts := Vector.replicate 8 { script := [], served := 0 }
    outPorts := Vector.replicate 8 { script := [], served := 0, trace := [] } }

/-- Where the data segment starts: `256 + len(CODE)` (00_scope.md R9). -/
def StartInputs.dataStart (i : StartInputs) : Nat := 256 + i.code.length

/-- Where the heap starts: `DS + len(DATA)` (00_scope.md R9). -/
def StartInputs.heapStart (i : StartInputs) : Nat := i.dataStart + i.data.length

/-- Why a start-up is refused (70_reset_and_hazards.md R362, U24). Safe. Log 16. -/
inductive StartRefusal where
  /-- the code is not a whole number of instructions (D2) -/
  | codeNotWhole
  /-- the image does not fit the memory (D1) -/
  | imageTooLarge
  /-- the memory is larger than 2^31 bytes (D1) -/
  | memoryTooLarge
  /-- `HE_RESET` is not in `HS-1 .. M-1` (D3) -/
  | heapEndOutOfRange
  deriving DecidableEq, Repr

/-- The first requirement of 70_reset_and_hazards.md R362 that the inputs break, if any. -/
def StartInputs.check (i : StartInputs) : Option StartRefusal :=
  if i.code.length % 4 ≠ 0 then some .codeNotWhole
  else if i.memSize < i.heapStart then some .imageTooLarge
  else if 2 ^ 31 < i.memSize then some .memoryTooLarge
  else if i.heReset.toNat + 1 < i.heapStart ∨ i.memSize ≤ i.heReset.toNat then some .heapEndOutOfRange
  else none

/-- Memory after start-up: zero, the code from 256, the data behind it (70_reset_and_hazards.md R363). -/
def StartInputs.memory (i : StartInputs) : Memory :=
  Memory.writeBytes (Memory.writeBytes [] 256 i.code) i.dataStart i.data

/-- The state after start-up (70_reset_and_hazards.md R363 to R365, 10_state.md R67). -/
def StartInputs.state (i : StartInputs) : State :=
  { gpr := Vector.replicate 32 0
    pc := 256
    ds := BitVec.ofNat 32 i.dataStart
    hs := BitVec.ofNat 32 i.heapStart
    he := i.heReset
    sp := BitVec.ofNat 32 i.memSize
    fp := i.fp
    ir := i.ir
    stat := i.stat
    err := i.err
    hi := i.hi
    lo := i.lo
    cmpr := i.cmpr
    mem := i.memory
    run := .running
    params :=
      { memSize := i.memSize, mode := i.mode, wpWrite := i.wpWrite, overflowDest := i.overflowDest, imm2N0 := i.imm2N0 }
    inPorts := i.inPorts
    outPorts := i.outPorts
    divUses := 0 }

/-- Start-up (70_reset_and_hazards.md R360 to R365): refused when an input breaks a requirement. -/
def startUp (i : StartInputs) : Except StartRefusal State :=
  match i.check with
  | some why => .error why
  | none => .ok i.state

end Sys2Proof.Machine
end

