-- ==== Sys2Proof/Safety.lean ====
section
/-! DEFINITION. What the claims speak of: the invariant of the machine, what a destination accepts, what an
instruction leaves unchanged, and the encoding of an instruction as a claim about the decoder. The conditions are
written from the rules of spec/ in numbers and readings, not with the checks the meanings use. -/

namespace Sys2Proof.Machine

/-! ### The invariant -/

/-- What holds after every start-up and is kept by every step: the memory in canonical form within `0 .. M-1`, the
segments in order and `M` at most 2^31 (70_reset_and_hazards.md R362), and `HE < SP <= M` (20_memory.md R97). -/
abbrev State.Inv (s : State) : Prop :=
  s.mem.wf = true ∧ s.mem.below s.params.memSize = true ∧
    256 ≤ s.ds.toNat ∧ s.ds.toNat ≤ s.hs.toNat ∧ s.hs.toNat ≤ s.params.memSize ∧ s.params.memSize ≤ 2 ^ 31 ∧
    s.he.toNat < s.sp.toNat ∧ s.sp.toNat ≤ s.params.memSize

/-! ### Destinations -/

/-- The destination `x` takes the value `v` without a fault (10_state.md R37, R38): HE below SP, SP at most M and
above HE, a write-protected register only under `WP_WRITE = discard`. -/
abbrev Accepts (s : State) (x : Reg) (v : Word) : Prop :=
  (x.writeProtected = true → s.params.wpWrite = .discard) ∧
    (x = .he → v.toNat < s.sp.toNat) ∧
    (x = .sp → v.toNat ≤ s.params.memSize ∧ s.he.toNat < v.toNat)

/-- The destination `x` turns the value `v` down with the fault `c` (10_state.md R37, R38). -/
abbrev Rejects (s : State) (x : Reg) (v : Word) (c : Cause) : Prop :=
  (x.writeProtected = true ∧ s.params.wpWrite = .int9 ∧ c = .invalidRegister) ∨
    (x = .he ∧ s.sp.toNat ≤ v.toNat ∧ c = .accessViolation) ∨
    (x = .sp ∧ s.params.memSize < v.toNat ∧ c = .accessViolation) ∨
    (x = .sp ∧ v.toNat ≤ s.params.memSize ∧ v.toNat ≤ s.he.toNat ∧ c = .stackOverflow)

/-- The registers an accepted write of `v` to `x` changes: `x`, or none if `x` is write-protected. -/
def written (x : Reg) (v : Word) : List (Reg × Word) := if x.writeProtected then [] else [(x, v)]

/-! ### Frames -/

/-- Every one of the 45 registers reads in `t` as `regs` lists it, and one not listed as it did in `s`. -/
abbrev RegistersAfter (s t : State) (regs : List (Reg × Word)) : Prop :=
  ∀ r : Reg, t.readReg r = (regs.lookup r).getD (s.readReg r)

/-- Memory reads in `t` as in `s`, but for the bytes `bs` that stand from address `a` on. -/
abbrev MemoryAfter (s t : State) (a : Nat) (bs : List Byte) : Prop :=
  ∀ b : Nat, t.mem.read b = if a ≤ b ∧ b < a + bs.length then bs.getD (b - a) 0 else s.mem.read b

/-- The run state, the parameters, the devices and the model's counter are those of `s`. -/
abbrev RestUnchanged (s t : State) : Prop :=
  t.run = s.run ∧ t.params = s.params ∧ t.inPorts = s.inPorts ∧ t.outPorts = s.outPorts ∧ t.divUses = s.divUses

/-- `t` is `s` but for the listed registers and the bytes `bs` from address `a` on. -/
abbrev Becomes (s t : State) (regs : List (Reg × Word)) (a : Nat) (bs : List Byte) : Prop :=
  RegistersAfter s t regs ∧ MemoryAfter s t a bs ∧ RestUnchanged s t

/-- Instruction `i` gives its destination `x` the value `v`: if `x` accepts `v` the instruction completes and nothing but
`x` changes; if `x` rejects it the fault of 10_state.md R37 or R38 is raised and nothing else happens (D30, D7, D6, log 36,
18, 4). -/
def Yields (s : State) (i : Instr) (x : Reg) (v : Word) : Prop :=
  (Accepts s x v → ∃ t, exec i s = .next t ∧ Becomes s t (written x v) 0 []) ∧
    ∀ c, Rejects s x v c → exec i s = .next (raiseFault c s)

/-! ### Memory and stack -/

/-- No byte of `a .. a+n-1` lies in the code segment (20_memory.md R85). -/
abbrev Unprotected (s : State) (a n : Nat) : Prop := ∀ b, a ≤ b → b < a + n → ¬ (256 ≤ b ∧ b < s.ds.toNat)

/-- A word can be pushed: the new SP stays above HE, and its four bytes exist and are not protected
(41_load_store.md R167). -/
abbrev CanPush (s : State) : Prop :=
  s.he.toNat + 4 < s.sp.toNat ∧ s.sp.toNat ≤ s.params.memSize ∧ Unprotected s (s.sp.toNat - 4) 4

/-- The address lies in the code segment `256 .. DS-1` (20_memory.md R92). -/
abbrev InCode (s : State) (t : Int) : Prop := 256 ≤ t ∧ t < s.ds.toNat

/-- The four bytes at PC lie in the code segment, and the machine runs (10_state.md R46). -/
abbrev Fetches (s : State) : Prop := s.run = .running ∧ 256 ≤ s.pc.toNat ∧ s.pc.toNat + 3 < s.ds.toNat

/-! ### Encodings -/

/-- The byte that names a register in an instruction (10_state.md R33). -/
def regByte (r : Reg) : Byte := BitVec.ofNat 8 r.num

/-- Opcode `op` in format 000 is `i`, whatever the unused bytes hold (30_encoding.md R122). -/
def Encoded000 (op : Byte) (i : Instr) : Prop := ∀ u v w : Byte, decodeWord (wordOfBytes op u v w) = .ok i

/-- Opcode `op` in format NNN (30_encoding.md R123). -/
def EncodedNNN (op : Byte) (make : BitVec 24 → Instr) : Prop :=
  ∀ n : BitVec 24,
    decodeWord (wordOfBytes op (n.extractLsb' 16 8) (n.extractLsb' 8 8) (n.extractLsb' 0 8)) = .ok (make n)

/-- A word with a register byte above 44, fetched by any state, raises interrupt 9 (30_encoding.md R134; in every
instruction: D38, log 44). -/
def RaisesInvalidRegister (w : Word) : Prop :=
  ∀ s : State, Fetches s → s.mem.readWord s.pc.toNat = w → step s = .next (raiseFault .invalidRegister (afterFetch s))

/-- Opcode `op` in format R00, whatever the unused bytes hold (30_encoding.md R124, R134). -/
def EncodedR00 (op : Byte) (make : Reg → Instr) : Prop :=
  (∀ (x : Reg) (u v : Byte), decodeWord (wordOfBytes op (regByte x) u v) = .ok (make x)) ∧
    ∀ b u v : Byte, 44 < b.toNat → RaisesInvalidRegister (wordOfBytes op b u v)

/-- Opcode `op` in format RNN (30_encoding.md R125, R134). -/
def EncodedRNN (op : Byte) (make : Reg → BitVec 16 → Instr) : Prop :=
  (∀ (x : Reg) (n : BitVec 16),
    decodeWord (wordOfBytes op (regByte x) (n.extractLsb' 8 8) (n.extractLsb' 0 8)) = .ok (make x n)) ∧
    ∀ b u v : Byte, 44 < b.toNat → RaisesInvalidRegister (wordOfBytes op b u v)

/-- Opcode `op` in format RR0, whatever the unused byte holds (30_encoding.md R126, R134). -/
def EncodedRR0 (op : Byte) (make : Reg → Reg → Instr) : Prop :=
  (∀ (x y : Reg) (u : Byte), decodeWord (wordOfBytes op (regByte x) (regByte y) u) = .ok (make x y)) ∧
    ∀ b d u : Byte, 44 < b.toNat ∨ 44 < d.toNat → RaisesInvalidRegister (wordOfBytes op b d u)

/-- Opcode `op` in format RRN (30_encoding.md R127, R134). -/
def EncodedRRN (op : Byte) (make : Reg → Reg → BitVec 8 → Instr) : Prop :=
  (∀ (x y : Reg) (n : BitVec 8), decodeWord (wordOfBytes op (regByte x) (regByte y) n) = .ok (make x y n)) ∧
    ∀ b d u : Byte, 44 < b.toNat ∨ 44 < d.toNat → RaisesInvalidRegister (wordOfBytes op b d u)

/-- Opcode `op` in format RRR (30_encoding.md R128, R134). -/
def EncodedRRR (op : Byte) (make : Reg → Reg → Reg → Instr) : Prop :=
  (∀ x y z : Reg, decodeWord (wordOfBytes op (regByte x) (regByte y) (regByte z)) = .ok (make x y z)) ∧
    ∀ b d e : Byte, 44 < b.toNat ∨ 44 < d.toNat ∨ 44 < e.toNat → RaisesInvalidRegister (wordOfBytes op b d e)

/-- The 187 opcode bytes that are no instruction, as first and last byte of each range, in the order of
30_encoding.md R135. -/
def invalidOpcodeRanges : List (Nat × Nat) :=
  [(0x01, 0x03), (0x05, 0x0F), (0x16, 0x17), (0x1A, 0x2F), (0x37, 0x37), (0x3F, 0x3F), (0x44, 0x47), (0x4B, 0x4F),
    (0x5C, 0x5F), (0x66, 0x67), (0x6C, 0x6F), (0x73, 0x7F), (0x86, 0x87), (0x89, 0x8F), (0x93, 0x9F), (0xA1, 0xAF),
    (0xB1, 0xB7), (0xB9, 0xFF)]

/-- Is `op` one of the 187 invalid opcode bytes? (30_encoding.md R135) -/
def isInvalidOpcode (op : Byte) : Bool :=
  invalidOpcodeRanges.any fun range => decide (range.1 ≤ op.toNat) && decide (op.toNat ≤ range.2)

/-- How many bytes after the opcode are register numbers, by opcode: three in format RRR, two in RR0 and RRN, one in
R00 and RNN, none in 000 and NNN (30_encoding.md R129, R131, R233, R252). -/
def registerFieldCount (op : Nat) : Nat :=
  if op ∈ [0x30, 0x31, 0x33, 0x34, 0x48, 0x50, 0x52, 0x54, 0x58, 0x5A, 0x60, 0x62, 0x64, 0x68, 0x6A, 0xB0, 0xB8] then 3
  else if op ∈ [0x11, 0x12, 0x13, 0x14, 0x15, 0x32, 0x35, 0x36, 0x38, 0x39, 0x3B, 0x3C, 0x40, 0x41, 0x49, 0x4A, 0x51,
      0x53, 0x55, 0x56, 0x59, 0x5B, 0x61, 0x63, 0x65, 0x69, 0x6B, 0x70, 0x71] then 2
  else if op ∈ [0x10, 0x18, 0x19, 0x3A, 0x3D, 0x3E, 0x42, 0x43, 0x57, 0x72, 0x90] then 1
  else 0

/-- The register bytes of a word (30_encoding.md R134). -/
def registerBytes (w : Word) : List Byte :=
  [w.extractLsb' 16 8, w.extractLsb' 8 8, w.extractLsb' 0 8].take (registerFieldCount (w.extractLsb' 24 8).toNat)

/-- The bits of an instruction's word that its format uses (30_encoding.md R129). -/
def usedBits (w : Word) : Word :=
  if (w.extractLsb' 24 8).toNat ∈ [0x00, 0x04, 0x92] then 0xFF000000
  else if (w.extractLsb' 24 8).toNat ∈ [0x18, 0x19, 0x42, 0x43, 0x90] then 0xFFFF0000
  else if (w.extractLsb' 24 8).toNat ∈
      [0x11, 0x12, 0x13, 0x14, 0x15, 0x38, 0x39, 0x3B, 0x3C, 0x40, 0x41, 0x56, 0x70, 0x71] then 0xFFFFFF00
  else 0xFFFFFFFF

end Sys2Proof.Machine
end

