-- ==== Sys2Proof/WellFormed.lean ====
section
/-! DEFINITION. Well-formed instructions: those the spec's documented ranges and meanings cover without an open
choice (93_implementation_defined.md U2, U5, U16 to U18). Register numbers need no check: a `Reg` is a register.
The machine runs ill-formed instructions too, as the spec says (only U5 is refused); the encoder and the decoder
take every instruction, well-formed or not. -/

namespace Sys2Proof

/-- The register an instruction names as its destination operand, if it has one: the target of the checked write
of 10_state.md R37. For IN and OUT it is the count register (49_io.md R301, R302). -/
def Instr.dest : Instr → Option Reg
  | .set x _ | .cp x _ | .lb x _ | .lw x _ | .pop x => some x
  | .add x _ _ | .addu x _ _ | .addi x _ _ | .sub x _ _ | .subu x _ _ | .subi x _ _ | .subi2 x _ _ => some x
  | .abs x _ | .neg x _ | .inc x | .dec x | .mod x _ _ | .modi x _ _ | .modi2 x _ _ => some x
  | .and x _ _ | .andi x _ _ | .or x _ _ | .ori x _ _ | .xor x _ _ | .xori x _ _ | .not x _ | .noti x _ => some x
  | .nand x _ _ | .nandi x _ _ | .nor x _ _ | .nori x _ _ => some x
  | .shl x _ _ | .shli x _ _ | .shr x _ _ | .shri x _ _ | .shra x _ _ | .shrai x _ _ => some x
  | .rotl x _ _ | .rotli x _ _ | .rotr x _ _ | .rotri x _ _ => some x
  | .inp _ y _ | .out _ y _ => some y
  | .nop | .eop | .sb _ _ | .sw _ _ | .push _ => none
  | .mul _ _ | .mulu _ _ | .muli _ _ | .div _ _ | .divu _ _ | .divi _ _ | .divi2 _ _ => none
  | .cmp _ _ | .cmpu _ _ | .cmpi _ _ => none
  | .be _ | .bne _ | .bl _ | .ble _ | .bg _ | .bge _ | .jmp _ | .go _ | .call _ | .ret | .int _ => none

/-- Is the instruction an IN or an OUT, whose destination is its count register? -/
def Instr.isTransfer : Instr → Bool
  | .inp _ _ _ | .out _ _ _ => true
  | .nop | .eop | .set _ _ | .cp _ _ | .lb _ _ | .lw _ _ | .sb _ _ | .sw _ _ | .push _ | .pop _ => false
  | .add _ _ _ | .addu _ _ _ | .addi _ _ _ | .sub _ _ _ | .subu _ _ _ | .subi _ _ _ | .subi2 _ _ _ => false
  | .mul _ _ | .mulu _ _ | .muli _ _ | .div _ _ | .divu _ _ | .divi _ _ | .divi2 _ _ => false
  | .abs _ _ | .neg _ _ | .inc _ | .dec _ | .mod _ _ _ | .modi _ _ _ | .modi2 _ _ _ => false
  | .and _ _ _ | .andi _ _ _ | .or _ _ _ | .ori _ _ _ | .xor _ _ _ | .xori _ _ _ | .not _ _ | .noti _ _ => false
  | .nand _ _ _ | .nandi _ _ _ | .nor _ _ _ | .nori _ _ _ => false
  | .shl _ _ _ | .shli _ _ _ | .shr _ _ _ | .shri _ _ _ | .shra _ _ _ | .shrai _ _ _ => false
  | .rotl _ _ _ | .rotli _ _ _ | .rotr _ _ _ | .rotri _ _ _ | .cmp _ _ | .cmpu _ _ | .cmpi _ _ => false
  | .be _ | .bne _ | .bl _ | .ble _ | .bg _ | .bge _ | .jmp _ | .go _ | .call _ | .ret | .int _ => false

/-- No write-protected register as destination (U2); ZERO as the count register of IN or OUT is documented. -/
def Instr.destinationWritable (i : Instr) : Bool :=
  match i.dest with
  | none => true
  | some r => !r.writeProtected || (i.isTransfer && r == .zero)

/-- Not one of the forms the spec gives no meaning: `POP SP`, and IN or OUT with HE or SP as count register (U5). -/
def Instr.hasMeaning (i : Instr) : Bool :=
  !(i == .pop .sp) && !(i.isTransfer && (i.dest == some .he || i.dest == some .sp))

/-- The immediate lies in the documented range: not 0 for DIVI, DIVI2, MODI and MODI2 (U16, U18), at most 32767
for NOTI (U17). -/
def Instr.immediateDocumented : Instr → Bool
  | .divi _ n | .divi2 _ n => n != 0
  | .modi _ _ n | .modi2 _ _ n => n != 0
  | .noti _ n => n.toNat ≤ 32767
  | .nop | .eop | .set _ _ | .cp _ _ | .lb _ _ | .lw _ _ | .sb _ _ | .sw _ _ | .push _ | .pop _ => true
  | .add _ _ _ | .addu _ _ _ | .addi _ _ _ | .sub _ _ _ | .subu _ _ _ | .subi _ _ _ | .subi2 _ _ _ => true
  | .mul _ _ | .mulu _ _ | .muli _ _ | .div _ _ | .divu _ _ => true
  | .abs _ _ | .neg _ _ | .inc _ | .dec _ | .mod _ _ _ => true
  | .and _ _ _ | .andi _ _ _ | .or _ _ _ | .ori _ _ _ | .xor _ _ _ | .xori _ _ _ | .not _ _ => true
  | .nand _ _ _ | .nandi _ _ _ | .nor _ _ _ | .nori _ _ _ => true
  | .shl _ _ _ | .shli _ _ _ | .shr _ _ _ | .shri _ _ _ | .shra _ _ _ | .shrai _ _ _ => true
  | .rotl _ _ _ | .rotli _ _ _ | .rotr _ _ _ | .rotri _ _ _ | .cmp _ _ | .cmpu _ _ | .cmpi _ _ => true
  | .be _ | .bne _ | .bl _ | .ble _ | .bg _ | .bge _ | .jmp _ | .go _ | .call _ | .ret | .int _ => true
  | .inp _ _ _ | .out _ _ _ => true

/-- The three checks together. -/
def Instr.wellFormed (i : Instr) : Bool :=
  i.destinationWritable && i.hasMeaning && i.immediateDocumented

end Sys2Proof
end

