-- ==== Sys2Proof/Certificates/Slice0/Obligations.lean ====
section
/-! DEFINITION. The statements about the machine, from the numbered rules of spec/. A table of instructions and values
is written as a list: the statement holds of every row. `Becomes s t regs a bs` (Safety.lean) is the whole frame: `t` is
`s` but for the listed registers and the bytes `bs` from address `a` on; `Yields s i x v` says that the instruction writes
`v` to its destination and nothing else, or raises the fault with which the destination rejects `v`, so a statement through
it rests on the model's choices about destinations and faults (D30, D7, D6, log 36, 18, 4); `EncodedRRR` and its like give
the whole encoding, and that a register byte above 44 raises interrupt 9, which rests on D38, log 44. -/

open Sys2Proof Sys2Proof.Machine

/-! ### Encoding -/

/-- DECODE AND ENCODE AGREE, for every instruction with every operand and whatever bytes follow (30_encoding.md R120
to R131). -/
def Obligations.DecodeAfterEncode : Prop :=
  ∀ (i : Instr) (rest : List Byte), decode (encodeBytes i ++ rest) = .ok (i, rest)

/-- A word that decodes is the encoding of its instruction but for the bytes its format does not use
(30_encoding.md section 2). -/
def Obligations.EncodeAfterDecode : Prop :=
  ∀ (w : Word) (i : Instr), decodeWord w = .ok i → encode i = w &&& usedBits w

/-- The opcode map (30_encoding.md R131) over the seven formats (R122 to R128): each of the 69 rows, its fields where the
format puts them, unused bytes ignored; and every other first byte is no instruction. That a register byte above 44 raises
interrupt 9 in each of them (R134) is the spec's decision D38, log 44. -/
def Obligations.OpcodeMap : Prop :=
  (Encoded000 0x00 .nop ∧ Encoded000 0x04 .eop ∧ Encoded000 0x92 .ret) ∧
  (EncodedNNN 0x80 .be ∧ EncodedNNN 0x81 .bne ∧ EncodedNNN 0x82 .bl ∧ EncodedNNN 0x83 .ble ∧ EncodedNNN 0x84 .bg ∧
    EncodedNNN 0x85 .bge ∧ EncodedNNN 0x88 .jmp ∧ EncodedNNN 0x91 .call ∧ EncodedNNN 0xA0 .int) ∧
  (EncodedR00 0x18 .push ∧ EncodedR00 0x19 .pop ∧ EncodedR00 0x42 .inc ∧ EncodedR00 0x43 .dec ∧ EncodedR00 0x90 .go) ∧
  (EncodedRNN 0x10 .set ∧ EncodedRNN 0x3A .muli ∧ EncodedRNN 0x3D .divi ∧ EncodedRNN 0x3E .divi2 ∧
    EncodedRNN 0x57 .noti ∧ EncodedRNN 0x72 .cmpi) ∧
  (EncodedRR0 0x11 .cp ∧ EncodedRR0 0x12 .lb ∧ EncodedRR0 0x13 .lw ∧ EncodedRR0 0x14 .sb ∧ EncodedRR0 0x15 .sw ∧
    EncodedRR0 0x38 .mul ∧ EncodedRR0 0x39 .mulu ∧ EncodedRR0 0x3B .div ∧ EncodedRR0 0x3C .divu ∧
    EncodedRR0 0x40 .abs ∧ EncodedRR0 0x41 .neg ∧ EncodedRR0 0x56 .not ∧ EncodedRR0 0x70 .cmp ∧ EncodedRR0 0x71 .cmpu) ∧
  (EncodedRRN 0x32 .addi ∧ EncodedRRN 0x35 .subi ∧ EncodedRRN 0x36 .subi2 ∧ EncodedRRN 0x49 .modi ∧
    EncodedRRN 0x4A .modi2 ∧ EncodedRRN 0x51 .andi ∧ EncodedRRN 0x53 .ori ∧ EncodedRRN 0x55 .xori ∧
    EncodedRRN 0x59 .nandi ∧ EncodedRRN 0x5B .nori ∧ EncodedRRN 0x61 .shli ∧ EncodedRRN 0x63 .shri ∧
    EncodedRRN 0x65 .shrai ∧ EncodedRRN 0x69 .rotli ∧ EncodedRRN 0x6B .rotri) ∧
  (EncodedRRR 0x30 .add ∧ EncodedRRR 0x31 .addu ∧ EncodedRRR 0x33 .sub ∧ EncodedRRR 0x34 .subu ∧ EncodedRRR 0x48 .mod ∧
    EncodedRRR 0x50 .and ∧ EncodedRRR 0x52 .or ∧ EncodedRRR 0x54 .xor ∧ EncodedRRR 0x58 .nand ∧ EncodedRRR 0x5A .nor ∧
    EncodedRRR 0x60 .shl ∧ EncodedRRR 0x62 .shr ∧ EncodedRRR 0x64 .shra ∧ EncodedRRR 0x68 .rotl ∧
    EncodedRRR 0x6A .rotr ∧ EncodedRRR 0xB0 .inp ∧ EncodedRRR 0xB8 .out) ∧
  (∀ op u v w : Byte, isInvalidOpcode op = true → decodeWord (wordOfBytes op u v w) = .error .invalidOpcode)

/-- The register numbers (10_state.md section 2 to 4), and a few words written out from the encoding tables: one of each
format. -/
def Obligations.RegisterNumbersAndSampleWords : Prop :=
  (∀ k : Fin 32, Reg.ofNum (k.val + 1) = some (.gen k)) ∧
  ([0, 33, 34, 35, 36, 37, 38, 39, 40, 41, 42, 43, 44].map Reg.ofNum =
    [some .zero, some .pc, some .ds, some .hs, some .he, some .sp, some .fp, some .ir, some .stat, some .err, some .hi,
      some .lo, some .cmpr]) ∧
  (∀ b : Byte, 44 < b.toNat → Reg.ofNum b.toNat = none) ∧
  decodeWord 0x00ABCDEF = .ok .nop ∧
  decodeWord 0x81FFFFFE = .ok (.bne 0xFFFFFE) ∧
  decodeWord 0x18010000 = .ok (.push (.gen 0)) ∧
  decodeWord 0x1002FFFD = .ok (.set (.gen 1) 0xFFFD) ∧
  decodeWord 0x11022B00 = .ok (.cp (.gen 1) .lo) ∧
  decodeWord 0x32010205 = .ok (.addi (.gen 0) (.gen 1) 5) ∧
  decodeWord 0x30010203 = .ok (.add (.gen 0) (.gen 1) (.gen 2)) ∧
  decodeWord 0xB0010200 = .ok (.inp (.gen 0) (.gen 1) .zero)

/-! ### The step -/

/-- A STEP RUNS THE DECODED INSTRUCTION (10_state.md R46, R47): with IR its word and PC the address after it. -/
def Obligations.StepRunsDecoded : Prop :=
  ∀ (s : State) (i : Instr), Fetches s → decode (s.mem.readBytes s.pc.toNat 4) = .ok (i, []) →
    step s = exec i (afterFetch s) ∧
    Becomes s (afterFetch s) [(.ir, s.mem.readWord s.pc.toNat), (.pc, BitVec.ofNat 32 (s.pc.toNat + 4))] 0 [] ∧
    s.pc.toNat + 4 < 2 ^ 32

/-- A fetch at or above DS halts (10_state.md R48); one below 256 or straddling DS is a fault of the model, the spec's
treatment (R49, D12, log 11). -/
def Obligations.FetchOutsideCode : Prop :=
  ∀ s : State, s.run = .running →
    (s.ds.toNat ≤ s.pc.toNat → step s = .next { s with run := .halted }) ∧
    (s.pc.toNat < s.ds.toNat → s.pc.toNat < 256 ∨ s.ds.toNat ≤ s.pc.toNat + 3 → step s = .fault .fetchOutsideCode)

/-- A word whose first byte is no opcode raises interrupt 8; one of whose register bytes is above 44, interrupt 9; any
other word is an instruction (30_encoding.md section 5; for every instruction: D38, log 44; their order: D9, log 19). -/
def Obligations.DecodeFaults : Prop :=
  (∀ s : State, Fetches s → isInvalidOpcode (s.mem.read s.pc.toNat) = true →
    step s = .next (raiseFault .invalidOpcode (afterFetch s))) ∧
  (∀ s : State, Fetches s → isInvalidOpcode (s.mem.read s.pc.toNat) = false →
    (∃ b ∈ registerBytes (s.mem.readWord s.pc.toNat), 44 < b.toNat) →
    step s = .next (raiseFault .invalidRegister (afterFetch s))) ∧
  (∀ w : Word, isInvalidOpcode (w.extractLsb' 24 8) = false → (∀ b ∈ registerBytes w, b.toNat ≤ 44) →
    ∃ i, decodeWord w = .ok i)

/-- A halted machine stays as it is for any number of steps (60_exceptions.md R340; D28, log 10). -/
def Obligations.HaltedForever : Prop :=
  ∀ (s : State) (k : Nat), s.run = .halted → Host.Core.run Sys2Proof.core k s = .next s

/-- Debug mode runs the same states as normal mode, one step for each signal (60_exceptions.md R345; D29, log 14). -/
def Obligations.SameStatesInDebugMode : Prop :=
  ∀ (s : State) (signals : List Bool),
    (s.params.mode = .normal → hostTicks signals s = Host.Core.run Sys2Proof.core signals.length s) ∧
    (s.params.mode = .debug → hostTicks signals s = Host.Core.run Sys2Proof.core (signals.count true) s)

/-! ### Start-up -/

/-- Every general register is 0 after start-up, and in the state the model calls reset (10_state.md R41). -/
def Obligations.GeneralRegistersResetToZero : Prop :=
  (∀ (i : StartInputs) (s : State), startUp i = .ok s → ∀ k : Fin 32, s.readReg (.gen k) = 0) ∧
  ∀ k : Fin 32, State.reset.readReg (.gen k) = 0

/-- The special registers and the rest of the state after start-up (70_reset_and_hazards.md section 1, 10_state.md
section 8); HE and the seven registers without a stated value are inputs (D3, D4). -/
def Obligations.StartUpRegisters : Prop :=
  ∀ (i : StartInputs) (s : State), startUp i = .ok s →
    s.readReg .zero = 0 ∧ s.readReg .pc = 256 ∧
    (s.readReg .ds).toNat = 256 + i.code.length ∧
    (s.readReg .hs).toNat = 256 + i.code.length + i.data.length ∧
    s.readReg .he = i.heReset ∧ (s.readReg .sp).toNat = i.memSize ∧
    s.readReg .fp = i.fp ∧ s.readReg .ir = i.ir ∧ s.readReg .stat = i.stat ∧ s.readReg .err = i.err ∧
    s.readReg .hi = i.hi ∧ s.readReg .lo = i.lo ∧ s.readReg .cmpr = i.cmpr ∧
    s.run = .running ∧ s.params.mode = i.mode ∧ s.params.memSize = i.memSize ∧
    s.params.wpWrite = i.wpWrite ∧ s.params.overflowDest = i.overflowDest ∧ s.params.imm2N0 = i.imm2N0 ∧
    s.inPorts = i.inPorts ∧ s.outPorts = i.outPorts

/-- Memory after start-up: the code from 256, the data behind it, zero elsewhere (70_reset_and_hazards.md R363). -/
def Obligations.StartUpMemory : Prop :=
  ∀ (i : StartInputs) (s : State), startUp i = .ok s → ∀ a : Nat,
    s.mem.read a =
      if 256 ≤ a ∧ a < 256 + i.code.length then i.code.getD (a - 256) 0
      else if 256 + i.code.length ≤ a ∧ a < 256 + i.code.length + i.data.length then
        i.data.getD (a - (256 + i.code.length)) 0
      else 0

/-- Start-up is refused exactly when an input breaks a requirement (70_reset_and_hazards.md section 1; D1, D2, D3, D40,
log 16). -/
def Obligations.StartUpRefuses : Prop :=
  ∀ i : StartInputs,
    (∃ why, startUp i = .error why) ↔
      (i.code.length % 4 ≠ 0 ∨ i.memSize < 256 + i.code.length + i.data.length ∨ 2 ^ 31 < i.memSize ∨
        i.heReset.toNat + 1 < 256 + i.code.length + i.data.length ∨ i.memSize ≤ i.heReset.toNat)

/-- The invariant holds after every start-up (20_memory.md section 5). -/
def Obligations.StartUpEstablishesInvariant : Prop :=
  ∀ (i : StartInputs) (s : State), startUp i = .ok s → s.Inv

/-- The invariant holds in the state the model calls reset (the empty program, log 1; HE is HS, log 3). -/
def Obligations.ResetInvariant : Prop := State.reset.Inv

/-! ### What every step keeps -/

/-- AN INVARIANT THAT EVERY STEP KEEPS: the memory in canonical form within `0 .. M-1` (log 17), the segments in order,
`HE < SP <= M` (20_memory.md section 5). -/
def Obligations.StepKeepsInvariant : Prop :=
  ∀ s t : State, s.Inv → step s = .next t → t.Inv

/-- DS, HS and the parameters of the run never change (10_state.md section 4, 00_scope.md section 4). -/
def Obligations.StepKeepsConstants : Prop :=
  ∀ s t : State, step s = .next t → t.ds = s.ds ∧ t.hs = s.hs ∧ t.params = s.params

/-- No step changes a byte of the code segment: no store, no push, no transfer, no interrupt entry (20_memory.md
sections 3 and 6). -/
def Obligations.StepKeepsCode : Prop :=
  ∀ s t : State, step s = .next t → ∀ a : Nat, 256 ≤ a → a < s.ds.toNat → t.mem.read a = s.mem.read a

/-- An instruction changes a general register, HE, FP and STAT only where it names it as its destination; CMPR, HI and
LO moreover in the compare, and the multiply and divide instructions; IR never (10_state.md sections 3 and 4). -/
def Obligations.RegistersChangeOnlyWhenNamed : Prop :=
  ∀ (i : Instr) (s t : State), exec i s = .next t →
    (∀ k : Fin 32, i.dest ≠ some (.gen k) → t.readReg (.gen k) = s.readReg (.gen k)) ∧
    (i.dest ≠ some .he → t.readReg .he = s.readReg .he) ∧
    (i.dest ≠ some .fp → t.readReg .fp = s.readReg .fp) ∧
    (i.dest ≠ some .stat → t.readReg .stat = s.readReg .stat) ∧
    t.readReg .ir = s.readReg .ir ∧ t.readReg .zero = 0 ∧
    (i.dest ≠ some .cmpr → (∀ x y, i ≠ .cmp x y) → (∀ x y, i ≠ .cmpu x y) → (∀ x n, i ≠ .cmpi x n) →
      t.readReg .cmpr = s.readReg .cmpr) ∧
    ((∀ x y, i ≠ .mul x y) → (∀ x y, i ≠ .mulu x y) → (∀ x n, i ≠ .muli x n) → (∀ x y, i ≠ .div x y) →
      (∀ x y, i ≠ .divu x y) → (∀ x n, i ≠ .divi x n) → (∀ x n, i ≠ .divi2 x n) →
      (i.dest ≠ some .hi → t.readReg .hi = s.readReg .hi) ∧ (i.dest ≠ some .lo → t.readReg .lo = s.readReg .lo))

/-- ERR changes only where an instruction names it, or by the one bit of one fault, other bits kept (10_state.md section
4; sticky: D17, log 27; one fault at most: D9, log 19). The division of -2^31 by -1 is left out: nothing is assumed of it
(D18, log 7). -/
def Obligations.ErrChangesByOneFaultBit : Prop :=
  ∀ (i : Instr) (s t : State), exec i s = .next t → i.dest ≠ some .err →
    (∀ x y, i = .div x y → ¬((s.readReg x).toInt = -2 ^ 31 ∧ (s.readReg y).toInt = -1)) →
    (∀ x n, i = .divi x n → ¬((s.readReg x).toInt = -2 ^ 31 ∧ n.toInt = -1)) →
    t.readReg .err = s.readReg .err ∨ ∃ c : Cause, t.readReg .err = s.readReg .err ||| c.errMask

/-- A step only appends to an output trace, and an instruction other than IN and OUT touches no device (49_io.md
section 1). -/
def Obligations.DevicesOnlyByTransfers : Prop :=
  (∀ s t : State, step s = .next t → ∀ p : Fin 8, ∃ sent, t.outPorts[p].trace = s.outPorts[p].trace ++ sent) ∧
  ∀ (i : Instr) (s t : State), exec i s = .next t → i.isTransfer = false →
    t.inPorts = s.inPorts ∧ t.outPorts = s.outPorts

/-- A byte reaches a port only from memory, by OUT, and a byte from a port lands only in memory, by IN: nothing else moves
bytes between the machine and its devices (49_io.md R304; that bytes beyond those delivered keep their values: D26, log 34;
that a transfer that moves a byte raises no fault, all checks coming before it: D25, log 33). -/
def Obligations.BytesMoveOnlyBetweenPortsAndMemory : Prop :=
  ∀ (i : Instr) (s t : State), exec i s = .next t → ∀ p : Fin 8,
    (t.outPorts[p] ≠ s.outPorts[p] → ∃ x y z : Reg, i = .out x y z ∧ (s.readReg z).toNat = p.val ∧
      ∃ k : Nat, k ≤ (s.readReg y).toNat ∧
        t.outPorts[p].trace = s.outPorts[p].trace ++ s.mem.readBytes (s.readReg x).toNat k) ∧
    (t.inPorts[p] ≠ s.inPorts[p] → ∃ x y z : Reg, i = .inp x y z ∧ (s.readReg z).toNat = p.val ∧
      ∃ k : Nat, k ≤ (s.readReg y).toNat ∧
        (∀ b : Nat, ¬((s.readReg x).toNat ≤ b ∧ b < (s.readReg x).toNat + k) → t.mem.read b = s.mem.read b) ∧
        (t.readReg y = s.readReg y ∨ t.readReg y = BitVec.ofNat 32 k) ∧
        ∀ r : Reg, r ≠ y → t.readReg r = s.readReg r)

/-! ### Interrupts -/

/-- The eight causes: interrupt number and ERR bit (60_exceptions.md section 1, 10_state.md section 4). -/
def Obligations.CauseTable : Prop :=
  ([Cause.divisionByZero, .overflow, .invalidOpcode, .invalidRegister, .invalidAddress, .accessViolation, .stackOverflow,
      .noSuchPort].map fun c => (c.number.val, c.errMask)) =
    [(1, 1#32 <<< 0), (2, 1#32 <<< 1), (8, 1#32 <<< 5), (9, 1#32 <<< 6), (16, 1#32 <<< 8), (17, 1#32 <<< 9),
      (26, 1#32 <<< 11), (32, 1#32 <<< 16)]

/-- Interrupt entry (60_exceptions.md section 3): PC is pushed and set to the table entry; an empty entry halts the
machine with nothing else changed, and so does a push that is impossible (D14, log 24; one step: D24, log 32). -/
def Obligations.InterruptEntry : Prop :=
  ∀ (n : Fin 64) (s : State),
    (s.mem.readWord (4 * n.val) ≠ 0 → CanPush s →
      Becomes s (interrupt n s) [(.sp, BitVec.ofNat 32 (s.sp.toNat - 4)), (.pc, s.mem.readWord (4 * n.val))]
        (s.sp.toNat - 4) (bytesOfWord s.pc)) ∧
    (s.mem.readWord (4 * n.val) = 0 → interrupt n s = { s with run := .halted }) ∧
    (¬CanPush s → interrupt n s = { s with run := .halted })

/-- A fault sets its ERR bit, keeps the others, and enters its interrupt; nothing of the instruction takes place
(60_exceptions.md section 3; D7, D14, D17, log 18, 24, 27). -/
def Obligations.FaultEntry : Prop :=
  ∀ (c : Cause) (s : State),
    (s.mem.readWord (4 * c.number.val) ≠ 0 → CanPush s →
      Becomes s (raiseFault c s)
        [(.err, s.err ||| c.errMask), (.sp, BitVec.ofNat 32 (s.sp.toNat - 4)),
          (.pc, s.mem.readWord (4 * c.number.val))]
        (s.sp.toNat - 4) (bytesOfWord s.pc)) ∧
    (s.mem.readWord (4 * c.number.val) = 0 ∨ ¬CanPush s →
      raiseFault c s = { s with err := s.err ||| c.errMask, run := .halted })

/-- RET returns from a handler to the instruction after the one that raised the interrupt, with SP as it was; an
automatic interrupt leaves its ERR bit behind (60_exceptions.md section 4). -/
def Obligations.HandlerReturns : Prop :=
  (∀ (n : Fin 64) (s : State), s.mem.readWord (4 * n.val) ≠ 0 → CanPush s → InCode s s.pc.toNat →
    ∃ t, exec .ret (interrupt n s) = .next t ∧ Becomes s t [] (s.sp.toNat - 4) (bytesOfWord s.pc)) ∧
  ∀ (c : Cause) (s : State), s.mem.readWord (4 * c.number.val) ≠ 0 → CanPush s → InCode s s.pc.toNat →
    ∃ t, exec .ret (raiseFault c s) = .next t ∧
      Becomes s t [(.err, s.err ||| c.errMask)] (s.sp.toNat - 4) (bytesOfWord s.pc)

/-! ### Registers -/

/-- ZERO always reads 0 (10_state.md R43), and under `WP_WRITE = discard` (D6, log 4) what is written to it is lost: an
instruction that names ZERO as its destination leaves the state as it was or raises a fault from it (D7, log 18), and
those that have no fault of their own complete so; POP only drops the word; IN and OUT ask for 0 bytes and do nothing
(49_io.md R301, R302). -/
def Obligations.ZeroReadsZero : Prop :=
  (∀ s : State, s.readReg .zero = 0) ∧
  ∀ s : State, s.params.wpWrite = .discard →
    (∀ i : Instr, i.dest = some .zero → i ≠ .pop .zero → i.isTransfer = false →
      exec i s = .next s ∨ ∃ c : Cause, exec i s = .next (raiseFault c s)) ∧
    (∀ (y z : Reg) (m : BitVec 16) (n : BitVec 8),
      ∀ i ∈ [Instr.set .zero m, .cp .zero y, .abs .zero y, .neg .zero y, .inc .zero, .dec .zero, .and .zero y z,
          .andi .zero y n, .or .zero y z, .ori .zero y n, .xor .zero y z, .xori .zero y n, .not .zero y, .noti .zero m,
          .nand .zero y z, .nandi .zero y n, .nor .zero y z, .nori .zero y n, .shl .zero y z, .shli .zero y n,
          .shr .zero y z, .shri .zero y n, .shra .zero y z, .shrai .zero y n, .rotl .zero y z, .rotli .zero y n,
          .rotr .zero y z, .rotri .zero y n], exec i s = .next s) ∧
    (s.sp.toNat + 4 ≤ s.params.memSize → s.sp.toNat + 4 < 2 ^ 32 →
      ∃ t, exec (.pop .zero) s = .next t ∧ Becomes s t [(.sp, BitVec.ofNat 32 (s.sp.toNat + 4))] 0 []) ∧
    (∀ x z : Reg, (s.readReg z).toNat ≤ 7 → exec (.inp x .zero z) s = .next s ∧ exec (.out x .zero z) s = .next s)

/-! ### Control, load and store -/

/-- A step that fetches NOP, whatever the three unused bytes hold, loads IR, moves PC to the next instruction and changes
nothing else; outside the code segment no word is fetched: no step loads IR there (40_control.md R150). -/
def Obligations.NopStep : Prop :=
  Encoded000 0x00 .nop ∧
  (∀ s : State, Fetches s → s.mem.read s.pc.toNat = 0 →
    ∃ t, step s = .next t ∧
      Becomes s t [(.ir, s.mem.readWord s.pc.toNat), (.pc, BitVec.ofNat 32 (s.pc.toNat + 4))] 0 []) ∧
  ∀ s t : State, ¬Fetches s → step s = .next t → t.readReg .ir = s.readReg .ir

/-- NOP changes nothing; EOP halts the machine and changes nothing else (40_control.md; D28, log 10). -/
def Obligations.ControlInstructions : Prop :=
  Encoded000 0x00 .nop ∧ Encoded000 0x04 .eop ∧
  ∀ s : State, exec .nop s = .next s ∧ exec .eop s = .next { s with run := .halted }

/-- SET and CP (41_load_store.md R161, R162): encoding, result, the checks of the destination, nothing else changed. The
checks of HE and SP on every write: D30, log 36; nothing written by a fault: D7, log 18; a write-protected destination: D6,
log 4; interrupt 9 for a register byte above 44: D38, log 44. -/
def Obligations.SetAndCopy : Prop :=
  EncodedRNN 0x10 .set ∧ EncodedRR0 0x11 .cp ∧
  ∀ (s : State) (x y : Reg) (n : BitVec 16),
    ∀ p ∈ [(Instr.set x n, n.signExtend 32), (.cp x y, s.readReg y)], Yields s p.1 x p.2

/-- LB replaces the low byte of X only, or raises interrupt 16 and does nothing else (41_load_store.md R163; the checks of
the destination and nothing written by a fault: D30, D7, D6, log 36, 18, 4; a register byte above 44: D38, log 44). -/
def Obligations.LoadByte : Prop :=
  EncodedRR0 0x12 .lb ∧
  ∀ (s : State) (x y : Reg) (v : Word),
    v = (s.readReg x).extractLsb' 8 24 ++ s.mem.read (s.readReg y).toNat →
    ((s.readReg y).toNat < s.params.memSize → Yields s (.lb x y) x v) ∧
    (s.params.memSize ≤ (s.readReg y).toNat → exec (.lb x y) s = .next (raiseFault .invalidAddress s))

/-- LW loads the big-endian word at the address in Y, or raises interrupt 16 where one of its bytes does not exist
(41_load_store.md section 3, 20_memory.md section 1). -/
def Obligations.LoadWord : Prop :=
  EncodedRR0 0x13 .lw ∧
  ∀ (s : State) (x y : Reg) (a : Nat) (v : Word), a = (s.readReg y).toNat →
    v = s.mem.read a ++ s.mem.read (a + 1) ++ s.mem.read (a + 2) ++ s.mem.read (a + 3) →
    (a + 4 ≤ s.params.memSize → Yields s (.lw x y) x v) ∧
    (s.params.memSize < a + 4 → exec (.lw x y) s = .next (raiseFault .invalidAddress s))

/-- SB stores the low byte of X, SW its four bytes, the most significant first, at the address in Y; interrupt 16 where a
byte does not exist, else 17 where one lies in the code segment, and then no byte is written (41_load_store.md section
4; the order: D9, log 19; nothing written: D7, log 18). -/
def Obligations.Stores : Prop :=
  EncodedRR0 0x14 .sb ∧ EncodedRR0 0x15 .sw ∧
  ∀ (s : State) (x y : Reg) (a : Nat), a = (s.readReg y).toNat →
    ∀ p ∈ [(Instr.sb x y, [(s.readReg x).extractLsb' 0 8]),
        (.sw x y, [(s.readReg x).extractLsb' 24 8, (s.readReg x).extractLsb' 16 8, (s.readReg x).extractLsb' 8 8,
          (s.readReg x).extractLsb' 0 8])],
      (a + p.2.length ≤ s.params.memSize → Unprotected s a p.2.length →
        ∃ t, exec p.1 s = .next t ∧ Becomes s t [] a p.2) ∧
      (s.params.memSize < a + p.2.length → exec p.1 s = .next (raiseFault .invalidAddress s)) ∧
      (a + p.2.length ≤ s.params.memSize → ¬Unprotected s a p.2.length →
        exec p.1 s = .next (raiseFault .accessViolation s))

/-- PUSH stores the old content of X at SP - 4 and moves SP there; interrupt 26 where the stack would reach HE, else 16
or 17 where the word cannot be stored (41_load_store.md section 5; no wrap: D10, log 21; PUSH SP: D41, log 46). -/
def Obligations.Push : Prop :=
  EncodedR00 0x18 .push ∧
  ∀ (s : State) (x : Reg),
    (CanPush s → ∃ t, exec (.push x) s = .next t ∧
      Becomes s t [(.sp, BitVec.ofNat 32 (s.sp.toNat - 4))] (s.sp.toNat - 4) (bytesOfWord (s.readReg x))) ∧
    (s.sp.toNat ≤ s.he.toNat + 4 → exec (.push x) s = .next (raiseFault .stackOverflow s)) ∧
    (s.he.toNat + 4 < s.sp.toNat → s.params.memSize < s.sp.toNat →
      exec (.push x) s = .next (raiseFault .invalidAddress s)) ∧
    (s.he.toNat + 4 < s.sp.toNat → s.sp.toNat ≤ s.params.memSize → ¬Unprotected s (s.sp.toNat - 4) 4 →
      exec (.push x) s = .next (raiseFault .accessViolation s))

/-- POP loads the word at SP into X and adds 4 to SP; interrupt 16 where the stack is empty, the fault of the destination
where it rejects the word, and then SP stays (41_load_store.md section 5; D7, log 18). POP SP is in the statement of the
forms without meaning. -/
def Obligations.PopWord : Prop :=
  EncodedR00 0x19 .pop ∧
  ∀ (s : State) (x : Reg), x ≠ .sp →
    (s.sp.toNat + 4 ≤ s.params.memSize → s.sp.toNat + 4 < 2 ^ 32 → Accepts s x (s.mem.readWord s.sp.toNat) →
      ∃ t, exec (.pop x) s = .next t ∧
        Becomes s t (written x (s.mem.readWord s.sp.toNat) ++ [(.sp, BitVec.ofNat 32 (s.sp.toNat + 4))]) 0 []) ∧
    (s.sp.toNat + 4 ≤ s.params.memSize → ∀ c, Rejects s x (s.mem.readWord s.sp.toNat) c →
      exec (.pop x) s = .next (raiseFault c s)) ∧
    (s.params.memSize < s.sp.toNat + 4 → exec (.pop x) s = .next (raiseFault .invalidAddress s))

/-- PUSH X then POP Y copies X to Y and restores SP (41_load_store.md section 5). -/
def Obligations.PushThenPop : Prop :=
  ∀ (s : State) (x y : Reg), CanPush s → y ≠ .sp →
    ∃ t, exec (.push x) s = .next t ∧
      (Accepts t y (s.readReg x) →
        ∃ u, exec (.pop y) t = .next u ∧
          Becomes s u (written y (s.readReg x)) (s.sp.toNat - 4) (bytesOfWord (s.readReg x)))

/-- The forms the spec gives no meaning are refused by name: POP SP, and IN or OUT with HE or SP as count register
(93_implementation_defined.md U5; D41, log 12, 13). -/
def Obligations.FormsWithoutMeaningRefused : Prop :=
  ∀ s : State,
    exec (.pop .sp) s = .refused .popIntoSp ∧
    ∀ x z : Reg, ∀ y ∈ [Reg.he, .sp],
      exec (.inp x y z) s = .refused .countRegisterHeOrSp ∧ exec (.out x y z) s = .refused .countRegisterHeOrSp

/-! ### Arithmetic -/

/-- ADD, ADDI, INC and DEC: the exact signed sum where it fits 32 bits, else interrupt 2 with the destination unchanged
where `OVERFLOW_DEST` says so (42_arithmetic.md R181, R183, R197, R198). -/
def Obligations.SignedAddition : Prop :=
  EncodedRRR 0x30 .add ∧ EncodedRRN 0x32 .addi ∧ EncodedR00 0x42 .inc ∧ EncodedR00 0x43 .dec ∧
  ∀ (s : State) (x y z : Reg) (n : BitVec 8),
    ∀ p ∈ [(Instr.add x y z, (s.readReg y).toInt + (s.readReg z).toInt),
        (.addi x y n, (s.readReg y).toInt + n.toInt), (.inc x, (s.readReg x).toInt + 1),
        (.dec x, (s.readReg x).toInt - 1)],
      (∀ v : Word, v.toInt = p.2 → Yields s p.1 x v) ∧
      (p.2 < -2 ^ 31 ∨ 2 ^ 31 - 1 < p.2 → s.params.overflowDest = .unchanged →
        exec p.1 s = .next (raiseFault .overflow s))

/-- SUB, SUBI, SUBI2 on the signed readings and ADDU, SUBU on the unsigned ones: the exact result where it fits 32 bits,
else interrupt 2 (42_arithmetic.md section 2; the 8-bit field is signed: D34, log 40). -/
def Obligations.SubtractionAndUnsigned : Prop :=
  EncodedRRR 0x33 .sub ∧ EncodedRRN 0x35 .subi ∧ EncodedRRN 0x36 .subi2 ∧ EncodedRRR 0x31 .addu ∧
  EncodedRRR 0x34 .subu ∧
  ∀ (s : State) (x y z : Reg) (n : BitVec 8),
    (∀ p ∈ [(Instr.sub x y z, (s.readReg y).toInt - (s.readReg z).toInt),
        (.subi x y n, (s.readReg y).toInt - n.toInt), (.subi2 x y n, n.toInt - (s.readReg y).toInt)],
      (∀ v : Word, v.toInt = p.2 → Yields s p.1 x v) ∧
      (p.2 < -2 ^ 31 ∨ 2 ^ 31 - 1 < p.2 → s.params.overflowDest = .unchanged →
        exec p.1 s = .next (raiseFault .overflow s))) ∧
    (∀ p ∈ [(Instr.addu x y z, ((s.readReg y).toNat : Int) + (s.readReg z).toNat),
        (.subu x y z, ((s.readReg y).toNat : Int) - (s.readReg z).toNat)],
      (∀ v : Word, (v.toNat : Int) = p.2 → Yields s p.1 x v) ∧
      (p.2 < 0 ∨ 2 ^ 32 - 1 < p.2 → s.params.overflowDest = .unchanged →
        exec p.1 s = .next (raiseFault .overflow s)))

/-- Under `OVERFLOW_DEST = wrapped` an overflow writes the result modulo 2^32 to the destination before its interrupt,
or nothing where the destination rejects it (42_arithmetic.md section 1; D7; that a rejected value is not written, and that
ERR as destination is written before its bit 1 is set, are the model's choices, log 5). -/
def Obligations.WrappedOverflow : Prop :=
  ∀ (s : State) (x y z : Reg) (n : BitVec 8), s.params.overflowDest = .wrapped →
    ∀ p ∈ [(Instr.add x y z, (s.readReg y).toInt + (s.readReg z).toInt, -2 ^ 31, 2 ^ 31 - 1),
        (.addi x y n, (s.readReg y).toInt + n.toInt, -2 ^ 31, 2 ^ 31 - 1),
        (.sub x y z, (s.readReg y).toInt - (s.readReg z).toInt, -2 ^ 31, 2 ^ 31 - 1),
        (.subi x y n, (s.readReg y).toInt - n.toInt, -2 ^ 31, 2 ^ 31 - 1),
        (.subi2 x y n, n.toInt - (s.readReg y).toInt, -2 ^ 31, 2 ^ 31 - 1),
        (.inc x, (s.readReg x).toInt + 1, -2 ^ 31, 2 ^ 31 - 1),
        (.dec x, (s.readReg x).toInt - 1, -2 ^ 31, 2 ^ 31 - 1),
        (.addu x y z, ((s.readReg y).toNat : Int) + (s.readReg z).toNat, 0, 2 ^ 32 - 1),
        (.subu x y z, ((s.readReg y).toNat : Int) - (s.readReg z).toNat, 0, 2 ^ 32 - 1)],
      p.2.1 < p.2.2.1 ∨ p.2.2.2 < p.2.1 →
      (Accepts s x (BitVec.ofInt 32 p.2.1) →
        ∃ t, Becomes s t (written x (BitVec.ofInt 32 p.2.1)) 0 [] ∧ exec p.1 s = .next (raiseFault .overflow t)) ∧
      (¬Accepts s x (BitVec.ofInt 32 p.2.1) → exec p.1 s = .next (raiseFault .overflow s))

/-- MUL, MULI and MULU: HI and LO together are the product modulo 2^64 (42_arithmetic.md section 3; a negative product as
a two's complement pattern: D42, log 47). -/
def Obligations.Multiplication : Prop :=
  EncodedRR0 0x38 .mul ∧ EncodedRR0 0x39 .mulu ∧ EncodedRNN 0x3A .muli ∧
  ∀ (s : State) (x y : Reg) (n : BitVec 16),
    ∀ p ∈ [(Instr.mul x y, (s.readReg x).toInt * (s.readReg y).toInt),
        (.mulu x y, ((s.readReg x).toNat : Int) * (s.readReg y).toNat), (.muli x n, (s.readReg x).toInt * n.toInt)],
      ∃ (hi lo : Word) (t : State), hi ++ lo = BitVec.ofInt 64 p.2 ∧ exec p.1 s = .next t ∧
        Becomes s t [(.hi, hi), (.lo, lo)] 0 []

/-- DIV, DIVI, DIVI2 and DIVU with a divisor other than 0: the quotient in HI and the remainder in LO satisfy the
division law, the remainder smaller than the divisor and 0 or of the dividend's sign (42_arithmetic.md sections 1 and 4;
truncation: log 41). DIVI2 with the immediate 0 divides where `IMM2_N0` is `result0` (D22, log 6). -/
def Obligations.Division : Prop :=
  EncodedRR0 0x3B .div ∧ EncodedRR0 0x3C .divu ∧ EncodedRNN 0x3D .divi ∧ EncodedRNN 0x3E .divi2 ∧
  ∀ (s : State) (x y : Reg) (n : BitVec 16),
    (∀ p ∈ [(Instr.div x y, (s.readReg x).toInt, (s.readReg y).toInt), (.divi x n, (s.readReg x).toInt, n.toInt),
        (.divi2 x n, n.toInt, (s.readReg x).toInt)],
      p.2.2 ≠ 0 → ¬(p.2.1 = -2 ^ 31 ∧ p.2.2 = -1) →
      (p.1 = .divi2 x n → p.2.1 = 0 → s.params.imm2N0 = .result0) →
      ∃ (hi lo : Word) (t : State),
        p.2.1 = p.2.2 * hi.toInt + lo.toInt ∧ lo.toInt.natAbs < p.2.2.natAbs ∧
        (lo.toInt = 0 ∨ lo.toInt.sign = p.2.1.sign) ∧
        exec p.1 s = .next t ∧ Becomes s t [(.hi, hi), (.lo, lo)] 0 []) ∧
    ((s.readReg y).toNat ≠ 0 →
      ∃ (hi lo : Word) (t : State),
        (s.readReg x).toNat = (s.readReg y).toNat * hi.toNat + lo.toNat ∧ lo.toNat < (s.readReg y).toNat ∧
        exec (.divu x y) s = .next t ∧ Becomes s t [(.hi, hi), (.lo, lo)] 0 [])

/-- The seven divide and modulo instructions raise interrupt 1 for a divisor of 0, and DIVI2 and MODI2 for an immediate of
0 where `IMM2_N0` is `int1` (42_arithmetic.md sections 1, 4 and 6; D22, D37, log 6, 43). -/
def Obligations.DivisionByZero : Prop :=
  ∀ (s : State) (x y z : Reg) (n : BitVec 16) (m : BitVec 8),
    (∀ p ∈ [(Instr.div x y, s.readReg y), (.divu x y, s.readReg y), (.divi x n, n.signExtend 32),
        (.divi2 x n, s.readReg x), (.mod x y z, s.readReg z), (.modi x y m, m.setWidth 32), (.modi2 x y m, s.readReg y)],
      p.2 = 0 → exec p.1 s = .next (raiseFault .divisionByZero s)) ∧
    (s.params.imm2N0 = .int1 →
      exec (.divi2 x 0) s = .next (raiseFault .divisionByZero s) ∧
      exec (.modi2 x y 0) s = .next (raiseFault .divisionByZero s))

/-- DIV and DIVI of -2^31 by -1 complete, whatever the free value is: no register changes but HI, LO, ERR, SP and PC, and
memory only in the word an interrupt entry pushes (42_arithmetic.md section 1; D18, log 7). -/
def Obligations.DivisionOverflowOpen : Prop :=
  ∀ (s : State) (x y : Reg) (n : BitVec 16), (s.readReg x).toInt = -2 ^ 31 →
    ∀ p ∈ [(Instr.div x y, (s.readReg y).toInt), (.divi x n, n.toInt)], p.2 = -1 →
      ∃ t, exec p.1 s = .next t ∧
        (∀ r, r ∉ [Reg.hi, .lo, .err, .sp, .pc] → t.readReg r = s.readReg r) ∧
        (∀ a, a + 4 < s.sp.toNat ∨ s.sp.toNat ≤ a → t.mem.read a = s.mem.read a) ∧
        t.params = s.params ∧ t.inPorts = s.inPorts ∧ t.outPorts = s.outPorts

/-- MOD, MODI and MODI2 with a divisor other than 0: the remainder of the same division law (42_arithmetic.md section 6;
its sign: D35, log 41; MODI2 with the immediate 0: D22, log 6). -/
def Obligations.RemainderInstructions : Prop :=
  EncodedRRR 0x48 .mod ∧ EncodedRRN 0x49 .modi ∧ EncodedRRN 0x4A .modi2 ∧
  ∀ (s : State) (x y z : Reg) (n : BitVec 8),
    ∀ p ∈ [(Instr.mod x y z, (s.readReg y).toInt, (s.readReg z).toInt), (.modi x y n, (s.readReg y).toInt, (n.toNat : Int)),
        (.modi2 x y n, (n.toNat : Int), (s.readReg y).toInt)],
      p.2.2 ≠ 0 → (p.1 = .modi2 x y n → p.2.1 = 0 → s.params.imm2N0 = .result0) →
      ∃ (q : Int) (v : Word),
        p.2.1 = p.2.2 * q + v.toInt ∧ v.toInt.natAbs < p.2.2.natAbs ∧ (v.toInt = 0 ∨ v.toInt.sign = p.2.1.sign) ∧
        (Yields s p.1 x v)

/-- ABS, NEG and NOTI (42_arithmetic.md section 5, 43_logic_bitwise.md section 2; -2^31: D19, log 28; the field of NOTI:
D21, log 30). -/
def Obligations.AbsoluteNegateNotImmediate : Prop :=
  EncodedRR0 0x40 .abs ∧ EncodedRR0 0x41 .neg ∧ EncodedRNN 0x57 .noti ∧
  ∀ (s : State) (x y : Reg) (n : BitVec 16),
    ∀ p ∈ [(Instr.abs x y, BitVec.ofNat 32 ((s.readReg y).toInt.natAbs % 2 ^ 31)), (.neg x y, -s.readReg y),
        (.noti x n, ~~~(n.setWidth 32))], Yields s p.1 x p.2

/-! ### Logic -/

/-- The eleven bitwise instructions on 32-bit patterns, the 8-bit immediate extended with zeros (43_logic_bitwise.md R221
to R227 and R229 to R232; the checks of the destination and nothing written by a fault: D30, D7, D6, log 36, 18, 4; a
register byte above 44: D38, log 44). -/
def Obligations.BitwiseInstructions : Prop :=
  EncodedRRR 0x50 .and ∧ EncodedRRN 0x51 .andi ∧ EncodedRRR 0x52 .or ∧ EncodedRRN 0x53 .ori ∧ EncodedRRR 0x54 .xor ∧
  EncodedRRN 0x55 .xori ∧ EncodedRR0 0x56 .not ∧ EncodedRRR 0x58 .nand ∧ EncodedRRN 0x59 .nandi ∧
  EncodedRRR 0x5A .nor ∧ EncodedRRN 0x5B .nori ∧
  ∀ (s : State) (x y z : Reg) (n : BitVec 8),
    ∀ p ∈ [(Instr.and x y z, s.readReg y &&& s.readReg z), (.andi x y n, s.readReg y &&& n.setWidth 32),
        (.or x y z, s.readReg y ||| s.readReg z), (.ori x y n, s.readReg y ||| n.setWidth 32),
        (.xor x y z, s.readReg y ^^^ s.readReg z), (.xori x y n, s.readReg y ^^^ n.setWidth 32),
        (.not x y, ~~~s.readReg y), (.nand x y z, ~~~(s.readReg y &&& s.readReg z)),
        (.nandi x y n, ~~~(s.readReg y &&& n.setWidth 32)), (.nor x y z, ~~~(s.readReg y ||| s.readReg z)),
        (.nori x y n, ~~~(s.readReg y ||| n.setWidth 32))], Yields s p.1 x p.2

/-- SHL and SHLI multiply by 2^n modulo 2^32, for every amount n, register or immediate, read unsigned
(44_logic_shift_rotate.md R241, R242, R251; the checks of the destination and nothing written by a fault: D30, D7, D6, log
36, 18, 4; a register byte above 44: D38, log 44). -/
def Obligations.LeftShifts : Prop :=
  EncodedRRR 0x60 .shl ∧ EncodedRRN 0x61 .shli ∧
  ∀ (s : State) (x y z : Reg) (n : BitVec 8),
    ∀ p ∈ [(Instr.shl x y z, (s.readReg z).toNat), (.shli x y n, n.toNat)],
      ∀ v : Word, v.toNat = (s.readReg y).toNat * 2 ^ p.2 % 2 ^ 32 → Yields s p.1 x v

/-- SHR and SHRI divide the unsigned reading by 2^n, SHRA and SHRAI the signed one, both rounding down, for every amount n
(44_logic_shift_rotate.md sections 1 and 2; amounts from 32 on: D20, log 29). -/
def Obligations.RightShifts : Prop :=
  EncodedRRR 0x62 .shr ∧ EncodedRRN 0x63 .shri ∧ EncodedRRR 0x64 .shra ∧ EncodedRRN 0x65 .shrai ∧
  ∀ (s : State) (x y z : Reg) (n : BitVec 8),
    (∀ p ∈ [(Instr.shr x y z, (s.readReg z).toNat), (.shri x y n, n.toNat)],
      ∀ v : Word, v.toNat = (s.readReg y).toNat / 2 ^ p.2 → Yields s p.1 x v) ∧
    (∀ p ∈ [(Instr.shra x y z, (s.readReg z).toNat), (.shrai x y n, n.toNat)],
      ∀ v : Word, v.toInt = (s.readReg y).toInt.fdiv (2 ^ p.2) → Yields s p.1 x v)

/-- The rotations: bit j of the result is the bit of Y as many places to the right (left) as the amount modulo 32 says
(44_logic_shift_rotate.md R247 to R250; the amount modulo 32: R251 by inference, D20, log 29, 50; the checks of the
destination and nothing written by a fault: D30, D7, D6, log 36, 18, 4; a register byte above 44: D38, log 44). -/
def Obligations.Rotations : Prop :=
  EncodedRRR 0x68 .rotl ∧ EncodedRRN 0x69 .rotli ∧ EncodedRRR 0x6A .rotr ∧ EncodedRRN 0x6B .rotri ∧
  ∀ (s : State) (x y z : Reg) (n : BitVec 8),
    (∀ p ∈ [(Instr.rotl x y z, (s.readReg z).toNat % 32), (.rotli x y n, n.toNat % 32)],
      ∀ v : Word, (∀ j < 32, v.getLsbD j = (s.readReg y).getLsbD ((j + 32 - p.2) % 32)) → Yields s p.1 x v) ∧
    (∀ p ∈ [(Instr.rotr x y z, (s.readReg z).toNat % 32), (.rotri x y n, n.toNat % 32)],
      ∀ v : Word, (∀ j < 32, v.getLsbD j = (s.readReg y).getLsbD ((j + p.2) % 32)) → Yields s p.1 x v)

/-! ### Compare and branch -/

/-- CMP, CMPI and CMPU write -1, 0 or +1 to CMPR and nothing else (45_compare.md; the pattern of -1: D36, log 42). -/
def Obligations.CompareInstructions : Prop :=
  EncodedRR0 0x70 .cmp ∧ EncodedRR0 0x71 .cmpu ∧ EncodedRNN 0x72 .cmpi ∧
  ∀ (s : State) (x y : Reg) (n : BitVec 16),
    ∀ p ∈ [(Instr.cmp x y, (s.readReg x).toInt, (s.readReg y).toInt),
        (.cmpu x y, ((s.readReg x).toNat : Int), ((s.readReg y).toNat : Int)), (.cmpi x n, (s.readReg x).toInt, n.toInt)],
      ∃ (c : Word) (t : State),
        (p.2.1 < p.2.2 → c.toInt = -1) ∧ (p.2.1 = p.2.2 → c.toInt = 0) ∧ (p.2.2 < p.2.1 → c.toInt = 1) ∧
        exec p.1 s = .next t ∧ Becomes s t [(.cmpr, c)] 0 []

/-- The six conditional branches on the signed reading of CMPR, and JMP: the target is `A + 4n` with PC = A + 4; taken
within the code segment it goes to PC, taken outside it raises interrupt 17, untaken nothing happens (46_branch.md; D10,
D23, D33, D36, log 21, 31, 39, 42). -/
def Obligations.BranchInstructions : Prop :=
  ∀ (s : State) (n : BitVec 24) (c target : Int), c = (s.readReg .cmpr).toInt →
    target = ((s.readReg .pc).toNat : Int) - 4 + 4 * n.toInt →
    ∀ p ∈ [(Instr.be n, c = 0), (.bne n, c ≠ 0), (.bl n, c < 0), (.ble n, c ≤ 0), (.bg n, 0 < c), (.bge n, 0 ≤ c),
        (.jmp n, True)],
      (p.2 → InCode s target →
        ∃ (v : Word) (t : State), (v.toNat : Int) = target ∧ exec p.1 s = .next t ∧ Becomes s t [(.pc, v)] 0 []) ∧
      (p.2 → ¬InCode s target → exec p.1 s = .next (raiseFault .accessViolation s)) ∧
      (¬p.2 → exec p.1 s = .next s)

/-! ### Subroutines and system -/

/-- GO jumps to the address in X, RET to the word on top of the stack, which it removes; interrupt 17 where the target
lies outside the code segment, 16 where RET finds the stack empty (47_subroutine.md; unsigned: D10, log 21; checks first:
D24, log 32). -/
def Obligations.AbsoluteJumps : Prop :=
  EncodedR00 0x90 .go ∧ Encoded000 0x92 .ret ∧
  (∀ (s : State) (x : Reg),
    (InCode s (s.readReg x).toNat → ∃ t, exec (.go x) s = .next t ∧ Becomes s t [(.pc, s.readReg x)] 0 []) ∧
    (¬InCode s (s.readReg x).toNat → exec (.go x) s = .next (raiseFault .accessViolation s))) ∧
  ∀ (s : State) (w : Word), w = s.mem.readWord s.sp.toNat →
    (s.sp.toNat + 4 ≤ s.params.memSize → s.sp.toNat + 4 < 2 ^ 32 → InCode s w.toNat →
      ∃ t, exec .ret s = .next t ∧ Becomes s t [(.pc, w), (.sp, BitVec.ofNat 32 (s.sp.toNat + 4))] 0 []) ∧
    (s.params.memSize < s.sp.toNat + 4 → exec .ret s = .next (raiseFault .invalidAddress s)) ∧
    (s.sp.toNat + 4 ≤ s.params.memSize → ¬InCode s w.toNat → exec .ret s = .next (raiseFault .accessViolation s))

/-- CALL pushes PC and jumps to `A + 4n`. Its faults in their order: those of PUSH (26 where the stack would reach HE, 16
where SP lies above the memory, 17 where the word would touch the code segment), then 17 for a target outside the code
segment; a CALL that faults has pushed nothing (47_subroutine.md R286; D9, D10, D24, D33, log 19, 21, 32, 39). -/
def Obligations.Call : Prop :=
  EncodedNNN 0x91 .call ∧
  ∀ (s : State) (n : BitVec 24) (target : Int), target = ((s.readReg .pc).toNat : Int) - 4 + 4 * n.toInt →
    (CanPush s → InCode s target →
      ∃ (v : Word) (t : State), (v.toNat : Int) = target ∧ exec (.call n) s = .next t ∧
        Becomes s t [(.pc, v), (.sp, BitVec.ofNat 32 (s.sp.toNat - 4))] (s.sp.toNat - 4) (bytesOfWord s.pc)) ∧
    (s.sp.toNat ≤ s.he.toNat + 4 → exec (.call n) s = .next (raiseFault .stackOverflow s)) ∧
    (s.he.toNat + 4 < s.sp.toNat → s.params.memSize < s.sp.toNat →
      exec (.call n) s = .next (raiseFault .invalidAddress s)) ∧
    (s.he.toNat + 4 < s.sp.toNat → s.sp.toNat ≤ s.params.memSize → ¬Unprotected s (s.sp.toNat - 4) 4 →
      exec (.call n) s = .next (raiseFault .accessViolation s)) ∧
    (CanPush s → ¬InCode s target → exec (.call n) s = .next (raiseFault .accessViolation s))

/-- CALL then RET comes back to the instruction after the CALL with every register as it was (47_subroutine.md). -/
def Obligations.CallThenReturn : Prop :=
  ∀ (s : State) (n : BitVec 24), CanPush s → InCode s (((s.readReg .pc).toNat : Int) - 4 + 4 * n.toInt) →
    InCode s s.pc.toNat →
    ∃ t u, exec (.call n) s = .next t ∧ exec .ret t = .next u ∧
      Becomes s u [] (s.sp.toNat - 4) (bytesOfWord s.pc)

/-- INT n enters interrupt n, and interrupt 0 for n above 63, with ERR as it was: the handler in the table, or the machine
halts where the entry is empty (48_system.md, 60_exceptions.md section 3; D15, D16, D43, log 25, 26, 48). -/
def Obligations.SoftwareInterrupt : Prop :=
  EncodedNNN 0xA0 .int ∧
  ∀ (s : State) (n : BitVec 24) (e : Word), e = s.mem.readWord (4 * if n.toNat ≤ 63 then n.toNat else 0) →
    (e ≠ 0 → CanPush s →
      ∃ t, exec (.int n) s = .next t ∧
        Becomes s t [(.sp, BitVec.ofNat 32 (s.sp.toNat - 4)), (.pc, e)] (s.sp.toNat - 4) (bytesOfWord s.pc)) ∧
    (e = 0 ∨ ¬CanPush s → exec (.int n) s = .next { s with run := .halted })

/-! ### Input and output -/

/-- IN stores the bytes the device delivers, at most as many as asked for, at ascending addresses and their count in Y;
bytes beyond the count keep their values; a scheduled answer is delivered as scheduled (49_io.md; D25, D26, log 8, 33,
34). The count registers HE and SP are in the statement of the forms without meaning. -/
def Obligations.Input : Prop :=
  EncodedRRR 0xB0 .inp ∧
  ∀ (s : State) (x y z : Reg) (a n : Nat) (p : Fin 8),
    y ∉ [Reg.he, .sp] → (y.writeProtected = true → s.params.wpWrite = .discard) →
    a = (s.readReg x).toNat → n = (s.readReg y).toNat → (s.readReg z).toNat = p.val →
    (n ≠ 0 → a + n ≤ s.params.memSize) → Unprotected s a n →
    ∃ (bytes : List Byte) (t : State), bytes.length ≤ n ∧ exec (.inp x y z) s = .next t ∧
      RegistersAfter s t (written y (BitVec.ofNat 32 bytes.length)) ∧ MemoryAfter s t a bytes ∧
      t.run = s.run ∧ t.params = s.params ∧ t.outPorts = s.outPorts ∧ t.divUses = s.divUses ∧
      (∀ q : Fin 8, q ≠ p ∨ n = 0 → t.inPorts[q] = s.inPorts[q]) ∧
      (∀ first later, s.inPorts[p].script = first :: later → bytes = first.take n)

/-- OUT offers the bytes to the device, appends those it accepts to the port's trace and writes their count to Y; memory
is only read; a scheduled acceptance is kept (49_io.md; D25, log 8, 33). The count registers HE and SP are in the
statement of the forms without meaning. -/
def Obligations.Output : Prop :=
  EncodedRRR 0xB8 .out ∧
  ∀ (s : State) (x y z : Reg) (a n : Nat) (p : Fin 8),
    y ∉ [Reg.he, .sp] → (y.writeProtected = true → s.params.wpWrite = .discard) →
    a = (s.readReg x).toNat → n = (s.readReg y).toNat → (s.readReg z).toNat = p.val →
    (n ≠ 0 → a + n ≤ s.params.memSize) →
    ∃ (k : Nat) (t : State), k ≤ n ∧ exec (.out x y z) s = .next t ∧
      RegistersAfter s t (written y (BitVec.ofNat 32 k)) ∧ MemoryAfter s t 0 [] ∧
      t.run = s.run ∧ t.params = s.params ∧ t.inPorts = s.inPorts ∧ t.divUses = s.divUses ∧
      t.outPorts[p].trace = s.outPorts[p].trace ++ (s.mem.readBytes a n).take k ∧
      (∀ q : Fin 8, q ≠ p → t.outPorts[q] = s.outPorts[q]) ∧
      (∀ first later, s.outPorts[p].script = first :: later → k = min first n)

/-- IN and OUT raise interrupt 32 for a port above 7, else 16 where a byte of the range does not exist, else (IN) 17 where
one lies in the code segment, and last 9 for a write-protected count register under `WP_WRITE = int9`, of OUT also where
the range touches the code segment (49_io.md R301, R302; their order: D9, log 19; before the transfer: D25, log 15, 33). -/
def Obligations.TransferFaults : Prop :=
  ∀ (s : State) (x y z : Reg) (a n : Nat), y ∉ [Reg.he, .sp] →
    a = (s.readReg x).toNat → n = (s.readReg y).toNat →
    (∀ i ∈ [Instr.inp x y z, .out x y z],
      (7 < (s.readReg z).toNat → exec i s = .next (raiseFault .noSuchPort s)) ∧
      ((s.readReg z).toNat ≤ 7 → n ≠ 0 → s.params.memSize < a + n → exec i s = .next (raiseFault .invalidAddress s))) ∧
    ((s.readReg z).toNat ≤ 7 → a + n ≤ s.params.memSize → ¬Unprotected s a n →
      exec (.inp x y z) s = .next (raiseFault .accessViolation s)) ∧
    ((s.readReg z).toNat ≤ 7 → (n ≠ 0 → a + n ≤ s.params.memSize) → y.writeProtected = true →
      s.params.wpWrite = .int9 →
      (Unprotected s a n → exec (.inp x y z) s = .next (raiseFault .invalidRegister s)) ∧
      exec (.out x y z) s = .next (raiseFault .invalidRegister s))

/-! ### Memory -/

/-- Two memories in canonical form that read the same at every address are the same data: the model's own choice of
representation (log 17). -/
def Obligations.CanonicalMemory : Prop :=
  ∀ m₁ m₂ : Memory, m₁.wf = true → m₂.wf = true → (∀ a, m₁.read a = m₂.read a) → m₁ = m₂
end

