-- ==== Sys2Proof/Laws/Memory.lean ====
section
/-! SUPPORT. The laws of memory: a read after a write, the canonical form kept by every operation, equal reads make
equal memories, a word read back from its four bytes. -/

namespace Sys2Proof.Machine

/-! ### A read after a write -/

@[simp] theorem Memory.read_nil (a : Nat) : Memory.read [] a = unlistedByte := rfl

theorem Memory.read_erase (m : Memory) (a b : Nat) :
    (m.erase a).read b = if a = b then unlistedByte else m.read b := by
  induction m with
  | nil => simp [Memory.erase]
  | cons cell rest ih =>
    obtain ⟨k, c⟩ := cell
    by_cases hk : k = a <;> by_cases hb : k = b <;> simp_all [Memory.erase, Memory.read]
    intro h; exact absurd h.symm hk

theorem Memory.mem_erase {m : Memory} {a : Nat} {e : Host.Cell} (h : e ∈ m.erase a) : e ∈ m ∧ e.1 ≠ a := by
  induction m with
  | nil => simp [Memory.erase] at h
  | cons cell rest ih =>
    obtain ⟨k, c⟩ := cell
    by_cases hk : k = a
    · simp only [Memory.erase, hk, if_true] at h
      exact ⟨List.mem_cons_of_mem _ (ih h).1, (ih h).2⟩
    · simp only [Memory.erase, hk, if_false, List.mem_cons] at h
      rcases h with h | h
      · subst h; exact ⟨List.mem_cons_self, hk⟩
      · exact ⟨List.mem_cons_of_mem _ (ih h).1, (ih h).2⟩

theorem Memory.read_insert (m : Memory) (a b : Nat) (c : Byte) (h : ∀ e ∈ m, e.1 ≠ a) :
    (m.insert a c).read b = if a = b then c else m.read b := by
  induction m with
  | nil => simp [Memory.insert, Memory.read]
  | cons cell rest ih =>
    obtain ⟨k, d⟩ := cell
    have hk : k ≠ a := h (k, d) List.mem_cons_self
    have ih := ih fun e he => h e (List.mem_cons_of_mem _ he)
    by_cases hlt : a < k
    · simp [Memory.insert, hlt, Memory.read]
    · simp only [Memory.insert, hlt, if_false, Memory.read, ih]
      by_cases hb : k = b
      · have hab : a ≠ b := fun e => hk (hb.trans e.symm)
        simp [hb, hab]
      · simp [hb]

/-- What a byte reads as after one byte is written: every write, every read, any memory. -/
theorem Memory.read_write (m : Memory) (a b : Nat) (c : Byte) :
    (m.write a c).read b = if a = b then c else m.read b := by
  unfold Memory.write
  split
  · next h => simp [Memory.read_erase, h]
  · rw [Memory.read_insert _ _ _ _ fun e he => (Memory.mem_erase he).2, Memory.read_erase]
    by_cases hab : a = b <;> simp [hab]

/-- What a byte reads as after several are written. -/
theorem Memory.read_writeBytes (m : Memory) (a b : Nat) (bs : List Byte) :
    (m.writeBytes a bs).read b = if a ≤ b ∧ b < a + bs.length then bs.getD (b - a) 0 else m.read b := by
  induction bs generalizing m a with
  | nil =>
    have : ¬(a ≤ b ∧ b < a + 0) := by omega
    simp only [Memory.writeBytes, List.length_nil, this, if_false]
  | cons c cs ih =>
    rw [Memory.writeBytes, ih, Memory.read_write]
    simp only [List.length_cons]
    by_cases hab : a = b
    · subst hab
      have h1 : ¬(a + 1 ≤ a ∧ a < a + 1 + cs.length) := by omega
      have h2 : a ≤ a ∧ a < a + (cs.length + 1) := by omega
      simp only [h1, h2, if_true, if_false, and_self]
      simp
    · by_cases h : a + 1 ≤ b ∧ b < a + 1 + cs.length
      · have h2 : a ≤ b ∧ b < a + (cs.length + 1) := by omega
        have h3 : b - a = (b - (a + 1)) + 1 := by omega
        simp only [h, h2, and_self, if_true, h3, List.getD_cons_succ]
      · have h2 : ¬(a ≤ b ∧ b < a + (cs.length + 1)) := by omega
        simp only [h, h2, if_false, hab]

/-- As many bytes are read as asked for. -/
theorem Memory.readBytes_length (m : Memory) (a n : Nat) : (m.readBytes a n).length = n := by
  induction n generalizing a with
  | zero => rfl
  | succ n ih => simp [Memory.readBytes, ih]

/-- The first bytes of a range are the bytes of a shorter range. -/
theorem Memory.readBytes_take (m : Memory) (a n k : Nat) : (m.readBytes a n).take k = m.readBytes a (min k n) := by
  induction n generalizing a k with
  | zero => simp [Memory.readBytes]
  | succ n ih => cases k with
    | zero => simp [Memory.readBytes]
    | succ k => rw [Nat.add_min_add_right]; simp [Memory.readBytes, ih]

/-! ### The canonical form -/

theorem Memory.wfFrom_mono {m : Memory} {lo lo' : Nat} (hle : lo' ≤ lo) (h : m.wfFrom lo = true) :
    m.wfFrom lo' = true := by
  cases m with
  | nil => rfl
  | cons cell rest =>
    obtain ⟨k, c⟩ := cell
    simp only [Memory.wfFrom, Bool.and_eq_true, decide_eq_true_eq] at h ⊢
    exact ⟨⟨by omega, h.1.2⟩, h.2⟩

theorem Memory.wfFrom_erase {m : Memory} {lo : Nat} (a : Nat) (h : m.wfFrom lo = true) :
    (m.erase a).wfFrom lo = true := by
  induction m generalizing lo with
  | nil => rfl
  | cons cell rest ih =>
    obtain ⟨k, c⟩ := cell
    simp only [Memory.wfFrom, Bool.and_eq_true, decide_eq_true_eq] at h
    by_cases hk : k = a
    · simp only [Memory.erase, hk, if_true]
      exact Memory.wfFrom_mono (by omega) (ih h.2)
    · simp only [Memory.erase, hk, if_false, Memory.wfFrom, Bool.and_eq_true, decide_eq_true_eq]
      exact ⟨h.1, ih h.2⟩

theorem Memory.wfFrom_insert {m : Memory} {lo a : Nat} {c : Byte} (hlo : lo ≤ a) (hc : c ≠ unlistedByte)
    (ha : ∀ e ∈ m, e.1 ≠ a) (h : m.wfFrom lo = true) : (m.insert a c).wfFrom lo = true := by
  induction m generalizing lo with
  | nil => simp [Memory.insert, Memory.wfFrom, hlo, hc]
  | cons cell rest ih =>
    obtain ⟨k, d⟩ := cell
    have hk : k ≠ a := ha (k, d) List.mem_cons_self
    simp only [Memory.wfFrom, Bool.and_eq_true, decide_eq_true_eq] at h
    by_cases hlt : a < k
    · simp only [Memory.insert, hlt, if_true, Memory.wfFrom, Bool.and_eq_true, decide_eq_true_eq]
      exact ⟨⟨hlo, hc⟩, ⟨by omega, h.1.2⟩, h.2⟩
    · simp only [Memory.insert, hlt, if_false, Memory.wfFrom, Bool.and_eq_true, decide_eq_true_eq]
      exact ⟨h.1, ih (by omega) (fun e he => ha e (List.mem_cons_of_mem _ he)) h.2⟩

/-- A write keeps the canonical form. -/
theorem Memory.wf_write {m : Memory} (a : Nat) (c : Byte) (h : m.wf = true) : (m.write a c).wf = true := by
  unfold Memory.write
  split
  · exact Memory.wfFrom_erase a h
  · next hc =>
    exact Memory.wfFrom_insert (Nat.zero_le a) hc (fun e he => (Memory.mem_erase he).2) (Memory.wfFrom_erase a h)

/-- A write of several bytes keeps the canonical form. -/
theorem Memory.wf_writeBytes {m : Memory} (a : Nat) (bs : List Byte) (h : m.wf = true) :
    (m.writeBytes a bs).wf = true := by
  induction bs generalizing m a with
  | nil => exact h
  | cons c cs ih => exact ih (a + 1) (Memory.wf_write a c h)

theorem Memory.mem_insert {m : Memory} {a : Nat} {c : Byte} {e : Host.Cell} (h : e ∈ m.insert a c) :
    e = (a, c) ∨ e ∈ m := by
  induction m with
  | nil => simpa [Memory.insert] using h
  | cons cell rest ih =>
    obtain ⟨k, d⟩ := cell
    by_cases hlt : a < k
    · simpa [Memory.insert, hlt] using h
    · simp only [Memory.insert, hlt, if_false, List.mem_cons] at h
      rcases h with h | h
      · exact .inr (h ▸ List.mem_cons_self)
      · exact (ih h).imp_right (List.mem_cons_of_mem _)

/-- A write below `n` keeps the listed addresses below `n`. -/
theorem Memory.below_write {m : Memory} {n a : Nat} (c : Byte) (ha : a < n) (h : m.below n = true) :
    (m.write a c).below n = true := by
  simp only [Memory.below, List.all_eq_true, decide_eq_true_eq] at h ⊢
  intro e he
  unfold Memory.write at he
  split at he
  · exact h e (Memory.mem_erase he).1
  · rcases Memory.mem_insert he with rfl | he
    · exact ha
    · exact h e (Memory.mem_erase he).1

/-- A write of several bytes below `n` keeps the listed addresses below `n`. -/
theorem Memory.below_writeBytes {m : Memory} {n a : Nat} {bs : List Byte} (ha : bs = [] ∨ a + bs.length ≤ n)
    (h : m.below n = true) : (m.writeBytes a bs).below n = true := by
  induction bs generalizing m a with
  | nil => exact h
  | cons c cs ih =>
    simp only [List.length_cons, reduceCtorEq, false_or] at ha
    refine ih (.inr (by omega)) (Memory.below_write c (by omega) h)

/-! ### Equal reads, equal memories -/

theorem Memory.read_of_wfFrom {m : Memory} {lo a : Nat} (h : m.wfFrom lo = true) (ha : a < lo) :
    m.read a = unlistedByte := by
  induction m generalizing lo with
  | nil => rfl
  | cons cell rest ih =>
    obtain ⟨k, c⟩ := cell
    simp only [Memory.wfFrom, Bool.and_eq_true, decide_eq_true_eq] at h
    have : k ≠ a := by omega
    simp only [Memory.read, this, if_false]
    exact ih h.2 (by omega)

/-! ### Words -/

/-- The bytes of a word made of four bytes are those bytes. -/
theorem bytesOfWord_wordOfBytes (a b c d : Byte) : bytesOfWord (wordOfBytes a b c d) = [a, b, c, d] := by
  have ha := a.isLt; have hb := b.isLt; have hc := c.isLt; have hd := d.isLt
  simp only [bytesOfWord, wordOfBytes, List.cons.injEq, and_true]
  refine ⟨?_, ?_, ?_, ?_⟩ <;> apply BitVec.eq_of_toNat_eq <;>
    simp only [BitVec.extractLsb'_toNat, BitVec.toNat_ofNat, Nat.shiftRight_eq_div_pow] <;> omega

/-- A word made of its own bytes is that word. -/
theorem wordOfBytes_bytes (w : Word) :
    wordOfBytes (w.extractLsb' 24 8) (w.extractLsb' 16 8) (w.extractLsb' 8 8) (w.extractLsb' 0 8) = w := by
  have hw := w.isLt
  apply BitVec.eq_of_toNat_eq
  simp only [wordOfBytes, BitVec.extractLsb'_toNat, BitVec.toNat_ofNat, Nat.shiftRight_eq_div_pow]
  omega

@[simp] theorem bytesOfWord_length (w : Word) : (bytesOfWord w).length = 4 := rfl

/-- A stored word reads back. -/
theorem Memory.readWord_writeBytes_same (m : Memory) (a : Nat) (w : Word) :
    (m.writeBytes a (bytesOfWord w)).readWord a = w := by
  have h0 : a ≤ a ∧ a < a + 4 := by omega
  have h1 : a ≤ a + 1 ∧ a + 1 < a + 4 := by omega
  have h2 : a ≤ a + 2 ∧ a + 2 < a + 4 := by omega
  have h3 : a ≤ a + 3 ∧ a + 3 < a + 4 := by omega
  simp only [Memory.readWord, Memory.read_writeBytes, bytesOfWord_length, h0, h1, h2, h3, and_self, if_true]
  simp only [Nat.sub_self, Nat.add_sub_cancel_left, bytesOfWord]
  exact wordOfBytes_bytes w

/-- A stored word is not seen by a read that does not touch it. -/
theorem Memory.readWord_writeBytes_other (m : Memory) (a b : Nat) (bs : List Byte)
    (h : b + 4 ≤ a ∨ a + bs.length ≤ b) : (m.writeBytes a bs).readWord b = m.readWord b := by
  have h0 : ¬(a ≤ b ∧ b < a + bs.length) := by omega
  have h1 : ¬(a ≤ b + 1 ∧ b + 1 < a + bs.length) := by omega
  have h2 : ¬(a ≤ b + 2 ∧ b + 2 < a + bs.length) := by omega
  have h3 : ¬(a ≤ b + 3 ∧ b + 3 < a + bs.length) := by omega
  simp only [Memory.readWord, Memory.read_writeBytes, h0, h1, h2, h3, if_false]

end Sys2Proof.Machine
end

