-- ==== Sys2Proof/Laws/Decode.lean ====
section
/-! SUPPORT. The laws of register numbers, of the fields of a word made of four bytes, and of the encoders of the
seven formats. -/

namespace Sys2Proof.Machine

/-! ### Register numbers -/

theorem num_lt (r : Reg) : r.num < 45 := by
  cases r with
  | gen k => have := k.isLt; simp [Reg.num]; omega
  | _ => simp [Reg.num]

theorem ofNum_gen : ∀ k : Fin 32, Reg.ofNum (k.val + 1) = some (.gen k) := by decide

/-- The register with a register's number is that register. -/
theorem ofNum_num (r : Reg) : Reg.ofNum r.num = some r := by
  cases r with
  | gen k => exact ofNum_gen k
  | _ => rfl

@[simp] theorem regByte_toNat (r : Reg) : (regByte r).toNat = r.num := by
  have := num_lt r
  simp [regByte]; omega

/-- A byte names a register exactly when it is at most 44. -/
theorem ofNum_eq_none : ∀ b : Byte, Reg.ofNum b.toNat = none ↔ 44 < b.toNat := by decide

/-! ### Fields -/

@[simp] theorem opcodeField_wordOfBytes (a b c d : Byte) : opcodeField (wordOfBytes a b c d) = a := by
  have h := bytesOfWord_wordOfBytes a b c d; simp [bytesOfWord] at h; exact h.1
@[simp] theorem xField_wordOfBytes (a b c d : Byte) : xField (wordOfBytes a b c d) = b := by
  have h := bytesOfWord_wordOfBytes a b c d; simp [bytesOfWord] at h; exact h.2.1
@[simp] theorem yField_wordOfBytes (a b c d : Byte) : yField (wordOfBytes a b c d) = c := by
  have h := bytesOfWord_wordOfBytes a b c d; simp [bytesOfWord] at h; exact h.2.2.1
@[simp] theorem zField_wordOfBytes (a b c d : Byte) : zField (wordOfBytes a b c d) = d := by
  have h := bytesOfWord_wordOfBytes a b c d; simp [bytesOfWord] at h; exact h.2.2.2
@[simp] theorem imm8Field_wordOfBytes (a b c d : Byte) : imm8Field (wordOfBytes a b c d) = d :=
  zField_wordOfBytes a b c d

/-- The 16-bit immediate of a word whose last bytes are those of `n`. -/
@[simp] theorem imm16Field_wordOfBytes (a b : Byte) (n : BitVec 16) :
    imm16Field (wordOfBytes a b (n.extractLsb' 8 8) (n.extractLsb' 0 8)) = n := by
  have ha := a.isLt; have hb := b.isLt; have hn := n.isLt
  apply BitVec.eq_of_toNat_eq
  simp only [imm16Field, wordOfBytes, BitVec.extractLsb'_toNat, BitVec.toNat_ofNat, Nat.shiftRight_eq_div_pow]
  omega

/-- The 24-bit immediate of a word whose last bytes are those of `n`. -/
@[simp] theorem imm24Field_wordOfBytes (a : Byte) (n : BitVec 24) :
    imm24Field (wordOfBytes a (n.extractLsb' 16 8) (n.extractLsb' 8 8) (n.extractLsb' 0 8)) = n := by
  have ha := a.isLt; have hn := n.isLt
  apply BitVec.eq_of_toNat_eq
  simp only [imm24Field, wordOfBytes, BitVec.extractLsb'_toNat, BitVec.toNat_ofNat, Nat.shiftRight_eq_div_pow]
  omega

/-- A word is made of its own fields. -/
theorem wordOfBytes_fields (w : Word) : wordOfBytes (opcodeField w) (xField w) (yField w) (zField w) = w :=
  wordOfBytes_bytes w

/-! ### Decoding by opcode and format -/

/-- The decoder looks at the first byte first. -/
@[simp] theorem decodeWord_wordOfBytes (op u v w : Byte) :
    decodeWord (wordOfBytes op u v w) = decodeOpcode op.toNat (wordOfBytes op u v w) := by
  rw [decodeWord, opcodeField_wordOfBytes]

/-- Every word that starts with one of the 187 invalid opcode bytes is rejected. -/
theorem decodeOpcode_invalid {op : Byte} (w : Word) (h : isInvalidOpcode op = true) :
    decodeOpcode op.toNat w = .error .invalidOpcode := by
  unfold decodeOpcode
  split
  case h_70 => rfl
  all_goals
    rename_i hop
    simp only [isInvalidOpcode, hop] at h
    exact absurd h (by decide)


theorem decodeR00_wordOfBytes (make : Reg → Instr) (op : Byte) (x : Reg) (u v : Byte) :
    decodeR00 make (wordOfBytes op (regByte x) u v) = .ok (make x) := by
  simp [decodeR00, ofNum_num]
theorem decodeRNN_wordOfBytes (make : Reg → BitVec 16 → Instr) (op : Byte) (x : Reg) (n : BitVec 16) :
    decodeRNN make (wordOfBytes op (regByte x) (n.extractLsb' 8 8) (n.extractLsb' 0 8)) = .ok (make x n) := by
  simp [decodeRNN, ofNum_num]
theorem decodeRR0_wordOfBytes (make : Reg → Reg → Instr) (op : Byte) (x y : Reg) (u : Byte) :
    decodeRR0 make (wordOfBytes op (regByte x) (regByte y) u) = .ok (make x y) := by
  simp [decodeRR0, ofNum_num]
theorem decodeRRN_wordOfBytes (make : Reg → Reg → BitVec 8 → Instr) (op : Byte) (x y : Reg) (n : BitVec 8) :
    decodeRRN make (wordOfBytes op (regByte x) (regByte y) n) = .ok (make x y n) := by
  simp [decodeRRN, ofNum_num]
theorem decodeRRR_wordOfBytes (make : Reg → Reg → Reg → Instr) (op : Byte) (x y z : Reg) :
    decodeRRR make (wordOfBytes op (regByte x) (regByte y) (regByte z)) = .ok (make x y z) := by
  simp [decodeRRR, ofNum_num]

/-! ### Register bytes above 44 -/

theorem ofNum_of_lt {b : Byte} (h : 44 < b.toNat) : Reg.ofNum b.toNat = none := (ofNum_eq_none b).mpr h

theorem decodeR00_invalid (make : Reg → Instr) (op : Byte) {b : Byte} (u v : Byte) (h : 44 < b.toNat) :
    decodeR00 make (wordOfBytes op b u v) = .error .invalidRegister := by
  simp [decodeR00, ofNum_of_lt h]
theorem decodeRNN_invalid (make : Reg → BitVec 16 → Instr) (op : Byte) {b : Byte} (u v : Byte) (h : 44 < b.toNat) :
    decodeRNN make (wordOfBytes op b u v) = .error .invalidRegister := by
  simp [decodeRNN, ofNum_of_lt h]
theorem decodeRR0_invalid (make : Reg → Reg → Instr) (op : Byte) {b d : Byte} (u : Byte)
    (h : 44 < b.toNat ∨ 44 < d.toNat) :
    decodeRR0 make (wordOfBytes op b d u) = .error .invalidRegister := by
  rcases h with h | h <;> simp [decodeRR0, ofNum_of_lt h]
theorem decodeRRN_invalid (make : Reg → Reg → BitVec 8 → Instr) (op : Byte) {b d : Byte} (u : Byte)
    (h : 44 < b.toNat ∨ 44 < d.toNat) :
    decodeRRN make (wordOfBytes op b d u) = .error .invalidRegister := by
  rcases h with h | h <;> simp [decodeRRN, ofNum_of_lt h]
theorem decodeRRR_invalid (make : Reg → Reg → Reg → Instr) (op : Byte) {b d e : Byte}
    (h : 44 < b.toNat ∨ 44 < d.toNat ∨ 44 < e.toNat) :
    decodeRRR make (wordOfBytes op b d e) = .error .invalidRegister := by
  rcases h with h | h | h <;> simp [decodeRRR, ofNum_of_lt h]

/-- Where the four bytes lie in the code segment, the fetch finds a word. -/
theorem fetchKind_of_fetches {s : State} (h : Fetches s) : fetchKind s = .word := by
  obtain ⟨-, h1, h2⟩ := h
  unfold fetchKind
  rw [if_neg (by omega), if_neg (by omega)]

/-- A step at a word that is no instruction. -/
theorem step_of_reject {s : State} {why : DecodeReject} (h : Fetches s) (hd : decodeWord (fetchWord s) = .error why) :
    step s = .next (raiseFault (rejectCause why) (afterFetch s)) := by
  simp [step, h.1, fetchKind_of_fetches h, hd]

/-- A step at a word that is an instruction. -/
theorem step_of_instr {s : State} {i : Instr} (h : Fetches s) (hd : decodeWord (fetchWord s) = .ok i) :
    step s = exec i (afterFetch s) := by
  simp [step, h.1, fetchKind_of_fetches h, hd]

/-- A word that decodes to no register raises interrupt 9 wherever it is fetched. -/
theorem raisesInvalidRegister_of_decode {w : Word} (h : decodeWord w = .error .invalidRegister) :
    RaisesInvalidRegister w := by
  intro s hs hw
  have hd : decodeWord (fetchWord s) = .error .invalidRegister := by rw [fetchWord, hw, h]
  rw [step_of_reject hs hd, rejectCause]

/-! ### The encoders -/

theorem opcodeWord_eq (op : Byte) (n : BitVec 24) :
    opcodeWord op n = wordOfBytes op (n.extractLsb' 16 8) (n.extractLsb' 8 8) (n.extractLsb' 0 8) := by
  have ho := op.isLt; have hn := n.isLt
  apply BitVec.eq_of_toNat_eq
  simp only [opcodeWord, wordOfBytes, BitVec.extractLsb'_toNat, BitVec.toNat_ofNat, Nat.shiftRight_eq_div_pow]
  omega
theorem encodeR00_eq (op : Byte) (x : Reg) : encodeR00 op x = wordOfBytes op (regByte x) 0 0 := by
  have ho := op.isLt; have hx := num_lt x
  apply BitVec.eq_of_toNat_eq
  simp only [encodeR00, opcodeWord, wordOfBytes, regByte_toNat, BitVec.toNat_ofNat, show (0 : Byte).toNat = 0 from rfl]
  omega
theorem encodeRNN_eq (op : Byte) (x : Reg) (n : BitVec 16) :
    encodeRNN op x n = wordOfBytes op (regByte x) (n.extractLsb' 8 8) (n.extractLsb' 0 8) := by
  have ho := op.isLt; have hx := num_lt x; have hn := n.isLt
  apply BitVec.eq_of_toNat_eq
  simp only [encodeRNN, opcodeWord, wordOfBytes, regByte_toNat, BitVec.extractLsb'_toNat, BitVec.toNat_ofNat,
    Nat.shiftRight_eq_div_pow]
  omega
theorem encodeRR0_eq (op : Byte) (x y : Reg) : encodeRR0 op x y = wordOfBytes op (regByte x) (regByte y) 0 := by
  have ho := op.isLt; have hx := num_lt x; have hy := num_lt y
  apply BitVec.eq_of_toNat_eq
  simp only [encodeRR0, opcodeWord, wordOfBytes, regByte_toNat, BitVec.toNat_ofNat, show (0 : Byte).toNat = 0 from rfl]
  omega
theorem encodeRRN_eq (op : Byte) (x y : Reg) (n : BitVec 8) :
    encodeRRN op x y n = wordOfBytes op (regByte x) (regByte y) n := by
  have ho := op.isLt; have hx := num_lt x; have hy := num_lt y; have hn := n.isLt
  apply BitVec.eq_of_toNat_eq
  simp only [encodeRRN, opcodeWord, wordOfBytes, regByte_toNat, BitVec.toNat_ofNat]
  omega
theorem encodeRRR_eq (op : Byte) (x y z : Reg) :
    encodeRRR op x y z = wordOfBytes op (regByte x) (regByte y) (regByte z) := by
  have ho := op.isLt; have hx := num_lt x; have hy := num_lt y; have hz := num_lt z
  apply BitVec.eq_of_toNat_eq
  simp only [encodeRRR, opcodeWord, wordOfBytes, regByte_toNat, BitVec.toNat_ofNat]
  omega

end Sys2Proof.Machine
end

