-- ==== Sys2Proof/Laws/Dispatch.lean ====
section
/-! SUPPORT. One equation of `exec` for each instruction: the meaning it calls. -/

namespace Sys2Proof.Machine

theorem exec_nop (s : State) : exec .nop s = execNop s := rfl
theorem exec_eop (s : State) : exec .eop s = execEop s := rfl
theorem exec_set (x : Reg) (n : BitVec 16) (s : State) : exec (.set x n) s = execSet x n s := rfl
theorem exec_cp (x : Reg) (y : Reg) (s : State) : exec (.cp x y) s = execCp x y s := rfl
theorem exec_lb (x : Reg) (y : Reg) (s : State) : exec (.lb x y) s = execLb x y s := rfl
theorem exec_lw (x : Reg) (y : Reg) (s : State) : exec (.lw x y) s = execLw x y s := rfl
theorem exec_sb (x : Reg) (y : Reg) (s : State) : exec (.sb x y) s = execSb x y s := rfl
theorem exec_sw (x : Reg) (y : Reg) (s : State) : exec (.sw x y) s = execSw x y s := rfl
theorem exec_push (x : Reg) (s : State) : exec (.push x) s = execPush x s := rfl
theorem exec_pop (x : Reg) (s : State) : exec (.pop x) s = execPop x s := rfl
theorem exec_add (x : Reg) (y : Reg) (z : Reg) (s : State) : exec (.add x y z) s = execAdd x y z s := rfl
theorem exec_addu (x : Reg) (y : Reg) (z : Reg) (s : State) : exec (.addu x y z) s = execAddu x y z s := rfl
theorem exec_addi (x : Reg) (y : Reg) (n : BitVec 8) (s : State) : exec (.addi x y n) s = execAddi x y n s := rfl
theorem exec_sub (x : Reg) (y : Reg) (z : Reg) (s : State) : exec (.sub x y z) s = execSub x y z s := rfl
theorem exec_subu (x : Reg) (y : Reg) (z : Reg) (s : State) : exec (.subu x y z) s = execSubu x y z s := rfl
theorem exec_subi (x : Reg) (y : Reg) (n : BitVec 8) (s : State) : exec (.subi x y n) s = execSubi x y n s := rfl
theorem exec_subi2 (x : Reg) (y : Reg) (n : BitVec 8) (s : State) : exec (.subi2 x y n) s = execSubi2 x y n s := rfl
theorem exec_mul (x : Reg) (y : Reg) (s : State) : exec (.mul x y) s = execMul x y s := rfl
theorem exec_mulu (x : Reg) (y : Reg) (s : State) : exec (.mulu x y) s = execMulu x y s := rfl
theorem exec_muli (x : Reg) (n : BitVec 16) (s : State) : exec (.muli x n) s = execMuli x n s := rfl
theorem exec_div (x : Reg) (y : Reg) (s : State) : exec (.div x y) s = execDiv x y s := rfl
theorem exec_divu (x : Reg) (y : Reg) (s : State) : exec (.divu x y) s = execDivu x y s := rfl
theorem exec_divi (x : Reg) (n : BitVec 16) (s : State) : exec (.divi x n) s = execDivi x n s := rfl
theorem exec_divi2 (x : Reg) (n : BitVec 16) (s : State) : exec (.divi2 x n) s = execDivi2 x n s := rfl
theorem exec_abs (x : Reg) (y : Reg) (s : State) : exec (.abs x y) s = execAbs x y s := rfl
theorem exec_neg (x : Reg) (y : Reg) (s : State) : exec (.neg x y) s = execNeg x y s := rfl
theorem exec_inc (x : Reg) (s : State) : exec (.inc x) s = execInc x s := rfl
theorem exec_dec (x : Reg) (s : State) : exec (.dec x) s = execDec x s := rfl
theorem exec_mod (x : Reg) (y : Reg) (z : Reg) (s : State) : exec (.mod x y z) s = execMod x y z s := rfl
theorem exec_modi (x : Reg) (y : Reg) (n : BitVec 8) (s : State) : exec (.modi x y n) s = execModi x y n s := rfl
theorem exec_modi2 (x : Reg) (y : Reg) (n : BitVec 8) (s : State) : exec (.modi2 x y n) s = execModi2 x y n s := rfl
theorem exec_and (x : Reg) (y : Reg) (z : Reg) (s : State) : exec (.and x y z) s = execAnd x y z s := rfl
theorem exec_andi (x : Reg) (y : Reg) (n : BitVec 8) (s : State) : exec (.andi x y n) s = execAndi x y n s := rfl
theorem exec_or (x : Reg) (y : Reg) (z : Reg) (s : State) : exec (.or x y z) s = execOr x y z s := rfl
theorem exec_ori (x : Reg) (y : Reg) (n : BitVec 8) (s : State) : exec (.ori x y n) s = execOri x y n s := rfl
theorem exec_xor (x : Reg) (y : Reg) (z : Reg) (s : State) : exec (.xor x y z) s = execXor x y z s := rfl
theorem exec_xori (x : Reg) (y : Reg) (n : BitVec 8) (s : State) : exec (.xori x y n) s = execXori x y n s := rfl
theorem exec_not (x : Reg) (y : Reg) (s : State) : exec (.not x y) s = execNot x y s := rfl
theorem exec_noti (x : Reg) (n : BitVec 16) (s : State) : exec (.noti x n) s = execNoti x n s := rfl
theorem exec_nand (x : Reg) (y : Reg) (z : Reg) (s : State) : exec (.nand x y z) s = execNand x y z s := rfl
theorem exec_nandi (x : Reg) (y : Reg) (n : BitVec 8) (s : State) : exec (.nandi x y n) s = execNandi x y n s := rfl
theorem exec_nor (x : Reg) (y : Reg) (z : Reg) (s : State) : exec (.nor x y z) s = execNor x y z s := rfl
theorem exec_nori (x : Reg) (y : Reg) (n : BitVec 8) (s : State) : exec (.nori x y n) s = execNori x y n s := rfl
theorem exec_shl (x : Reg) (y : Reg) (z : Reg) (s : State) : exec (.shl x y z) s = execShl x y z s := rfl
theorem exec_shli (x : Reg) (y : Reg) (n : BitVec 8) (s : State) : exec (.shli x y n) s = execShli x y n s := rfl
theorem exec_shr (x : Reg) (y : Reg) (z : Reg) (s : State) : exec (.shr x y z) s = execShr x y z s := rfl
theorem exec_shri (x : Reg) (y : Reg) (n : BitVec 8) (s : State) : exec (.shri x y n) s = execShri x y n s := rfl
theorem exec_shra (x : Reg) (y : Reg) (z : Reg) (s : State) : exec (.shra x y z) s = execShra x y z s := rfl
theorem exec_shrai (x : Reg) (y : Reg) (n : BitVec 8) (s : State) : exec (.shrai x y n) s = execShrai x y n s := rfl
theorem exec_rotl (x : Reg) (y : Reg) (z : Reg) (s : State) : exec (.rotl x y z) s = execRotl x y z s := rfl
theorem exec_rotli (x : Reg) (y : Reg) (n : BitVec 8) (s : State) : exec (.rotli x y n) s = execRotli x y n s := rfl
theorem exec_rotr (x : Reg) (y : Reg) (z : Reg) (s : State) : exec (.rotr x y z) s = execRotr x y z s := rfl
theorem exec_rotri (x : Reg) (y : Reg) (n : BitVec 8) (s : State) : exec (.rotri x y n) s = execRotri x y n s := rfl
theorem exec_cmp (x : Reg) (y : Reg) (s : State) : exec (.cmp x y) s = execCmp x y s := rfl
theorem exec_cmpu (x : Reg) (y : Reg) (s : State) : exec (.cmpu x y) s = execCmpu x y s := rfl
theorem exec_cmpi (x : Reg) (n : BitVec 16) (s : State) : exec (.cmpi x n) s = execCmpi x n s := rfl
theorem exec_be (n : BitVec 24) (s : State) : exec (.be n) s = execBe n s := rfl
theorem exec_bne (n : BitVec 24) (s : State) : exec (.bne n) s = execBne n s := rfl
theorem exec_bl (n : BitVec 24) (s : State) : exec (.bl n) s = execBl n s := rfl
theorem exec_ble (n : BitVec 24) (s : State) : exec (.ble n) s = execBle n s := rfl
theorem exec_bg (n : BitVec 24) (s : State) : exec (.bg n) s = execBg n s := rfl
theorem exec_bge (n : BitVec 24) (s : State) : exec (.bge n) s = execBge n s := rfl
theorem exec_jmp (n : BitVec 24) (s : State) : exec (.jmp n) s = execJmp n s := rfl
theorem exec_go (x : Reg) (s : State) : exec (.go x) s = execGo x s := rfl
theorem exec_call (n : BitVec 24) (s : State) : exec (.call n) s = execCall n s := rfl
theorem exec_ret (s : State) : exec .ret s = execRet s := rfl
theorem exec_int (n : BitVec 24) (s : State) : exec (.int n) s = execInt n s := rfl
theorem exec_inp (x : Reg) (y : Reg) (z : Reg) (s : State) : exec (.inp x y z) s = execInp x y z s := rfl
theorem exec_out (x : Reg) (y : Reg) (z : Reg) (s : State) : exec (.out x y z) s = execOut x y z s := rfl

end Sys2Proof.Machine
end

