-- ==== Sys2Proof/Laws/State.lean ====
section
/-! SUPPORT. What each named update of the state does to each field, and the field-wise equality of states. -/

namespace Sys2Proof.Machine

/-! ### setGpr -/

@[simp] theorem State.setGpr_gpr (s : State) (k : Fin 32) (v : Word) : (s.setGpr k v).gpr = s.gpr.set k.val v k.isLt := rfl
@[simp] theorem State.setGpr_pc (s : State) (k : Fin 32) (v : Word) : (s.setGpr k v).pc = s.pc := rfl
@[simp] theorem State.setGpr_ds (s : State) (k : Fin 32) (v : Word) : (s.setGpr k v).ds = s.ds := rfl
@[simp] theorem State.setGpr_hs (s : State) (k : Fin 32) (v : Word) : (s.setGpr k v).hs = s.hs := rfl
@[simp] theorem State.setGpr_he (s : State) (k : Fin 32) (v : Word) : (s.setGpr k v).he = s.he := rfl
@[simp] theorem State.setGpr_sp (s : State) (k : Fin 32) (v : Word) : (s.setGpr k v).sp = s.sp := rfl
@[simp] theorem State.setGpr_fp (s : State) (k : Fin 32) (v : Word) : (s.setGpr k v).fp = s.fp := rfl
@[simp] theorem State.setGpr_ir (s : State) (k : Fin 32) (v : Word) : (s.setGpr k v).ir = s.ir := rfl
@[simp] theorem State.setGpr_stat (s : State) (k : Fin 32) (v : Word) : (s.setGpr k v).stat = s.stat := rfl
@[simp] theorem State.setGpr_err (s : State) (k : Fin 32) (v : Word) : (s.setGpr k v).err = s.err := rfl
@[simp] theorem State.setGpr_hi (s : State) (k : Fin 32) (v : Word) : (s.setGpr k v).hi = s.hi := rfl
@[simp] theorem State.setGpr_lo (s : State) (k : Fin 32) (v : Word) : (s.setGpr k v).lo = s.lo := rfl
@[simp] theorem State.setGpr_cmpr (s : State) (k : Fin 32) (v : Word) : (s.setGpr k v).cmpr = s.cmpr := rfl
@[simp] theorem State.setGpr_mem (s : State) (k : Fin 32) (v : Word) : (s.setGpr k v).mem = s.mem := rfl
@[simp] theorem State.setGpr_run (s : State) (k : Fin 32) (v : Word) : (s.setGpr k v).run = s.run := rfl
@[simp] theorem State.setGpr_params (s : State) (k : Fin 32) (v : Word) : (s.setGpr k v).params = s.params := rfl
@[simp] theorem State.setGpr_inPorts (s : State) (k : Fin 32) (v : Word) : (s.setGpr k v).inPorts = s.inPorts := rfl
@[simp] theorem State.setGpr_outPorts (s : State) (k : Fin 32) (v : Word) : (s.setGpr k v).outPorts = s.outPorts := rfl
@[simp] theorem State.setGpr_divUses (s : State) (k : Fin 32) (v : Word) : (s.setGpr k v).divUses = s.divUses := rfl

/-! ### setPc -/

@[simp] theorem State.setPc_gpr (s : State) (v : Word) : (s.setPc v).gpr = s.gpr := rfl
@[simp] theorem State.setPc_pc (s : State) (v : Word) : (s.setPc v).pc = v := rfl
@[simp] theorem State.setPc_ds (s : State) (v : Word) : (s.setPc v).ds = s.ds := rfl
@[simp] theorem State.setPc_hs (s : State) (v : Word) : (s.setPc v).hs = s.hs := rfl
@[simp] theorem State.setPc_he (s : State) (v : Word) : (s.setPc v).he = s.he := rfl
@[simp] theorem State.setPc_sp (s : State) (v : Word) : (s.setPc v).sp = s.sp := rfl
@[simp] theorem State.setPc_fp (s : State) (v : Word) : (s.setPc v).fp = s.fp := rfl
@[simp] theorem State.setPc_ir (s : State) (v : Word) : (s.setPc v).ir = s.ir := rfl
@[simp] theorem State.setPc_stat (s : State) (v : Word) : (s.setPc v).stat = s.stat := rfl
@[simp] theorem State.setPc_err (s : State) (v : Word) : (s.setPc v).err = s.err := rfl
@[simp] theorem State.setPc_hi (s : State) (v : Word) : (s.setPc v).hi = s.hi := rfl
@[simp] theorem State.setPc_lo (s : State) (v : Word) : (s.setPc v).lo = s.lo := rfl
@[simp] theorem State.setPc_cmpr (s : State) (v : Word) : (s.setPc v).cmpr = s.cmpr := rfl
@[simp] theorem State.setPc_mem (s : State) (v : Word) : (s.setPc v).mem = s.mem := rfl
@[simp] theorem State.setPc_run (s : State) (v : Word) : (s.setPc v).run = s.run := rfl
@[simp] theorem State.setPc_params (s : State) (v : Word) : (s.setPc v).params = s.params := rfl
@[simp] theorem State.setPc_inPorts (s : State) (v : Word) : (s.setPc v).inPorts = s.inPorts := rfl
@[simp] theorem State.setPc_outPorts (s : State) (v : Word) : (s.setPc v).outPorts = s.outPorts := rfl
@[simp] theorem State.setPc_divUses (s : State) (v : Word) : (s.setPc v).divUses = s.divUses := rfl

/-! ### setIr -/

@[simp] theorem State.setIr_gpr (s : State) (v : Word) : (s.setIr v).gpr = s.gpr := rfl
@[simp] theorem State.setIr_pc (s : State) (v : Word) : (s.setIr v).pc = s.pc := rfl
@[simp] theorem State.setIr_ds (s : State) (v : Word) : (s.setIr v).ds = s.ds := rfl
@[simp] theorem State.setIr_hs (s : State) (v : Word) : (s.setIr v).hs = s.hs := rfl
@[simp] theorem State.setIr_he (s : State) (v : Word) : (s.setIr v).he = s.he := rfl
@[simp] theorem State.setIr_sp (s : State) (v : Word) : (s.setIr v).sp = s.sp := rfl
@[simp] theorem State.setIr_fp (s : State) (v : Word) : (s.setIr v).fp = s.fp := rfl
@[simp] theorem State.setIr_ir (s : State) (v : Word) : (s.setIr v).ir = v := rfl
@[simp] theorem State.setIr_stat (s : State) (v : Word) : (s.setIr v).stat = s.stat := rfl
@[simp] theorem State.setIr_err (s : State) (v : Word) : (s.setIr v).err = s.err := rfl
@[simp] theorem State.setIr_hi (s : State) (v : Word) : (s.setIr v).hi = s.hi := rfl
@[simp] theorem State.setIr_lo (s : State) (v : Word) : (s.setIr v).lo = s.lo := rfl
@[simp] theorem State.setIr_cmpr (s : State) (v : Word) : (s.setIr v).cmpr = s.cmpr := rfl
@[simp] theorem State.setIr_mem (s : State) (v : Word) : (s.setIr v).mem = s.mem := rfl
@[simp] theorem State.setIr_run (s : State) (v : Word) : (s.setIr v).run = s.run := rfl
@[simp] theorem State.setIr_params (s : State) (v : Word) : (s.setIr v).params = s.params := rfl
@[simp] theorem State.setIr_inPorts (s : State) (v : Word) : (s.setIr v).inPorts = s.inPorts := rfl
@[simp] theorem State.setIr_outPorts (s : State) (v : Word) : (s.setIr v).outPorts = s.outPorts := rfl
@[simp] theorem State.setIr_divUses (s : State) (v : Word) : (s.setIr v).divUses = s.divUses := rfl

/-! ### setHe -/

@[simp] theorem State.setHe_gpr (s : State) (v : Word) : (s.setHe v).gpr = s.gpr := rfl
@[simp] theorem State.setHe_pc (s : State) (v : Word) : (s.setHe v).pc = s.pc := rfl
@[simp] theorem State.setHe_ds (s : State) (v : Word) : (s.setHe v).ds = s.ds := rfl
@[simp] theorem State.setHe_hs (s : State) (v : Word) : (s.setHe v).hs = s.hs := rfl
@[simp] theorem State.setHe_he (s : State) (v : Word) : (s.setHe v).he = v := rfl
@[simp] theorem State.setHe_sp (s : State) (v : Word) : (s.setHe v).sp = s.sp := rfl
@[simp] theorem State.setHe_fp (s : State) (v : Word) : (s.setHe v).fp = s.fp := rfl
@[simp] theorem State.setHe_ir (s : State) (v : Word) : (s.setHe v).ir = s.ir := rfl
@[simp] theorem State.setHe_stat (s : State) (v : Word) : (s.setHe v).stat = s.stat := rfl
@[simp] theorem State.setHe_err (s : State) (v : Word) : (s.setHe v).err = s.err := rfl
@[simp] theorem State.setHe_hi (s : State) (v : Word) : (s.setHe v).hi = s.hi := rfl
@[simp] theorem State.setHe_lo (s : State) (v : Word) : (s.setHe v).lo = s.lo := rfl
@[simp] theorem State.setHe_cmpr (s : State) (v : Word) : (s.setHe v).cmpr = s.cmpr := rfl
@[simp] theorem State.setHe_mem (s : State) (v : Word) : (s.setHe v).mem = s.mem := rfl
@[simp] theorem State.setHe_run (s : State) (v : Word) : (s.setHe v).run = s.run := rfl
@[simp] theorem State.setHe_params (s : State) (v : Word) : (s.setHe v).params = s.params := rfl
@[simp] theorem State.setHe_inPorts (s : State) (v : Word) : (s.setHe v).inPorts = s.inPorts := rfl
@[simp] theorem State.setHe_outPorts (s : State) (v : Word) : (s.setHe v).outPorts = s.outPorts := rfl
@[simp] theorem State.setHe_divUses (s : State) (v : Word) : (s.setHe v).divUses = s.divUses := rfl

/-! ### setSp -/

@[simp] theorem State.setSp_gpr (s : State) (v : Word) : (s.setSp v).gpr = s.gpr := rfl
@[simp] theorem State.setSp_pc (s : State) (v : Word) : (s.setSp v).pc = s.pc := rfl
@[simp] theorem State.setSp_ds (s : State) (v : Word) : (s.setSp v).ds = s.ds := rfl
@[simp] theorem State.setSp_hs (s : State) (v : Word) : (s.setSp v).hs = s.hs := rfl
@[simp] theorem State.setSp_he (s : State) (v : Word) : (s.setSp v).he = s.he := rfl
@[simp] theorem State.setSp_sp (s : State) (v : Word) : (s.setSp v).sp = v := rfl
@[simp] theorem State.setSp_fp (s : State) (v : Word) : (s.setSp v).fp = s.fp := rfl
@[simp] theorem State.setSp_ir (s : State) (v : Word) : (s.setSp v).ir = s.ir := rfl
@[simp] theorem State.setSp_stat (s : State) (v : Word) : (s.setSp v).stat = s.stat := rfl
@[simp] theorem State.setSp_err (s : State) (v : Word) : (s.setSp v).err = s.err := rfl
@[simp] theorem State.setSp_hi (s : State) (v : Word) : (s.setSp v).hi = s.hi := rfl
@[simp] theorem State.setSp_lo (s : State) (v : Word) : (s.setSp v).lo = s.lo := rfl
@[simp] theorem State.setSp_cmpr (s : State) (v : Word) : (s.setSp v).cmpr = s.cmpr := rfl
@[simp] theorem State.setSp_mem (s : State) (v : Word) : (s.setSp v).mem = s.mem := rfl
@[simp] theorem State.setSp_run (s : State) (v : Word) : (s.setSp v).run = s.run := rfl
@[simp] theorem State.setSp_params (s : State) (v : Word) : (s.setSp v).params = s.params := rfl
@[simp] theorem State.setSp_inPorts (s : State) (v : Word) : (s.setSp v).inPorts = s.inPorts := rfl
@[simp] theorem State.setSp_outPorts (s : State) (v : Word) : (s.setSp v).outPorts = s.outPorts := rfl
@[simp] theorem State.setSp_divUses (s : State) (v : Word) : (s.setSp v).divUses = s.divUses := rfl

/-! ### setFp -/

@[simp] theorem State.setFp_gpr (s : State) (v : Word) : (s.setFp v).gpr = s.gpr := rfl
@[simp] theorem State.setFp_pc (s : State) (v : Word) : (s.setFp v).pc = s.pc := rfl
@[simp] theorem State.setFp_ds (s : State) (v : Word) : (s.setFp v).ds = s.ds := rfl
@[simp] theorem State.setFp_hs (s : State) (v : Word) : (s.setFp v).hs = s.hs := rfl
@[simp] theorem State.setFp_he (s : State) (v : Word) : (s.setFp v).he = s.he := rfl
@[simp] theorem State.setFp_sp (s : State) (v : Word) : (s.setFp v).sp = s.sp := rfl
@[simp] theorem State.setFp_fp (s : State) (v : Word) : (s.setFp v).fp = v := rfl
@[simp] theorem State.setFp_ir (s : State) (v : Word) : (s.setFp v).ir = s.ir := rfl
@[simp] theorem State.setFp_stat (s : State) (v : Word) : (s.setFp v).stat = s.stat := rfl
@[simp] theorem State.setFp_err (s : State) (v : Word) : (s.setFp v).err = s.err := rfl
@[simp] theorem State.setFp_hi (s : State) (v : Word) : (s.setFp v).hi = s.hi := rfl
@[simp] theorem State.setFp_lo (s : State) (v : Word) : (s.setFp v).lo = s.lo := rfl
@[simp] theorem State.setFp_cmpr (s : State) (v : Word) : (s.setFp v).cmpr = s.cmpr := rfl
@[simp] theorem State.setFp_mem (s : State) (v : Word) : (s.setFp v).mem = s.mem := rfl
@[simp] theorem State.setFp_run (s : State) (v : Word) : (s.setFp v).run = s.run := rfl
@[simp] theorem State.setFp_params (s : State) (v : Word) : (s.setFp v).params = s.params := rfl
@[simp] theorem State.setFp_inPorts (s : State) (v : Word) : (s.setFp v).inPorts = s.inPorts := rfl
@[simp] theorem State.setFp_outPorts (s : State) (v : Word) : (s.setFp v).outPorts = s.outPorts := rfl
@[simp] theorem State.setFp_divUses (s : State) (v : Word) : (s.setFp v).divUses = s.divUses := rfl

/-! ### setStat -/

@[simp] theorem State.setStat_gpr (s : State) (v : Word) : (s.setStat v).gpr = s.gpr := rfl
@[simp] theorem State.setStat_pc (s : State) (v : Word) : (s.setStat v).pc = s.pc := rfl
@[simp] theorem State.setStat_ds (s : State) (v : Word) : (s.setStat v).ds = s.ds := rfl
@[simp] theorem State.setStat_hs (s : State) (v : Word) : (s.setStat v).hs = s.hs := rfl
@[simp] theorem State.setStat_he (s : State) (v : Word) : (s.setStat v).he = s.he := rfl
@[simp] theorem State.setStat_sp (s : State) (v : Word) : (s.setStat v).sp = s.sp := rfl
@[simp] theorem State.setStat_fp (s : State) (v : Word) : (s.setStat v).fp = s.fp := rfl
@[simp] theorem State.setStat_ir (s : State) (v : Word) : (s.setStat v).ir = s.ir := rfl
@[simp] theorem State.setStat_stat (s : State) (v : Word) : (s.setStat v).stat = v := rfl
@[simp] theorem State.setStat_err (s : State) (v : Word) : (s.setStat v).err = s.err := rfl
@[simp] theorem State.setStat_hi (s : State) (v : Word) : (s.setStat v).hi = s.hi := rfl
@[simp] theorem State.setStat_lo (s : State) (v : Word) : (s.setStat v).lo = s.lo := rfl
@[simp] theorem State.setStat_cmpr (s : State) (v : Word) : (s.setStat v).cmpr = s.cmpr := rfl
@[simp] theorem State.setStat_mem (s : State) (v : Word) : (s.setStat v).mem = s.mem := rfl
@[simp] theorem State.setStat_run (s : State) (v : Word) : (s.setStat v).run = s.run := rfl
@[simp] theorem State.setStat_params (s : State) (v : Word) : (s.setStat v).params = s.params := rfl
@[simp] theorem State.setStat_inPorts (s : State) (v : Word) : (s.setStat v).inPorts = s.inPorts := rfl
@[simp] theorem State.setStat_outPorts (s : State) (v : Word) : (s.setStat v).outPorts = s.outPorts := rfl
@[simp] theorem State.setStat_divUses (s : State) (v : Word) : (s.setStat v).divUses = s.divUses := rfl

/-! ### setErr -/

@[simp] theorem State.setErr_gpr (s : State) (v : Word) : (s.setErr v).gpr = s.gpr := rfl
@[simp] theorem State.setErr_pc (s : State) (v : Word) : (s.setErr v).pc = s.pc := rfl
@[simp] theorem State.setErr_ds (s : State) (v : Word) : (s.setErr v).ds = s.ds := rfl
@[simp] theorem State.setErr_hs (s : State) (v : Word) : (s.setErr v).hs = s.hs := rfl
@[simp] theorem State.setErr_he (s : State) (v : Word) : (s.setErr v).he = s.he := rfl
@[simp] theorem State.setErr_sp (s : State) (v : Word) : (s.setErr v).sp = s.sp := rfl
@[simp] theorem State.setErr_fp (s : State) (v : Word) : (s.setErr v).fp = s.fp := rfl
@[simp] theorem State.setErr_ir (s : State) (v : Word) : (s.setErr v).ir = s.ir := rfl
@[simp] theorem State.setErr_stat (s : State) (v : Word) : (s.setErr v).stat = s.stat := rfl
@[simp] theorem State.setErr_err (s : State) (v : Word) : (s.setErr v).err = v := rfl
@[simp] theorem State.setErr_hi (s : State) (v : Word) : (s.setErr v).hi = s.hi := rfl
@[simp] theorem State.setErr_lo (s : State) (v : Word) : (s.setErr v).lo = s.lo := rfl
@[simp] theorem State.setErr_cmpr (s : State) (v : Word) : (s.setErr v).cmpr = s.cmpr := rfl
@[simp] theorem State.setErr_mem (s : State) (v : Word) : (s.setErr v).mem = s.mem := rfl
@[simp] theorem State.setErr_run (s : State) (v : Word) : (s.setErr v).run = s.run := rfl
@[simp] theorem State.setErr_params (s : State) (v : Word) : (s.setErr v).params = s.params := rfl
@[simp] theorem State.setErr_inPorts (s : State) (v : Word) : (s.setErr v).inPorts = s.inPorts := rfl
@[simp] theorem State.setErr_outPorts (s : State) (v : Word) : (s.setErr v).outPorts = s.outPorts := rfl
@[simp] theorem State.setErr_divUses (s : State) (v : Word) : (s.setErr v).divUses = s.divUses := rfl

/-! ### setHi -/

@[simp] theorem State.setHi_gpr (s : State) (v : Word) : (s.setHi v).gpr = s.gpr := rfl
@[simp] theorem State.setHi_pc (s : State) (v : Word) : (s.setHi v).pc = s.pc := rfl
@[simp] theorem State.setHi_ds (s : State) (v : Word) : (s.setHi v).ds = s.ds := rfl
@[simp] theorem State.setHi_hs (s : State) (v : Word) : (s.setHi v).hs = s.hs := rfl
@[simp] theorem State.setHi_he (s : State) (v : Word) : (s.setHi v).he = s.he := rfl
@[simp] theorem State.setHi_sp (s : State) (v : Word) : (s.setHi v).sp = s.sp := rfl
@[simp] theorem State.setHi_fp (s : State) (v : Word) : (s.setHi v).fp = s.fp := rfl
@[simp] theorem State.setHi_ir (s : State) (v : Word) : (s.setHi v).ir = s.ir := rfl
@[simp] theorem State.setHi_stat (s : State) (v : Word) : (s.setHi v).stat = s.stat := rfl
@[simp] theorem State.setHi_err (s : State) (v : Word) : (s.setHi v).err = s.err := rfl
@[simp] theorem State.setHi_hi (s : State) (v : Word) : (s.setHi v).hi = v := rfl
@[simp] theorem State.setHi_lo (s : State) (v : Word) : (s.setHi v).lo = s.lo := rfl
@[simp] theorem State.setHi_cmpr (s : State) (v : Word) : (s.setHi v).cmpr = s.cmpr := rfl
@[simp] theorem State.setHi_mem (s : State) (v : Word) : (s.setHi v).mem = s.mem := rfl
@[simp] theorem State.setHi_run (s : State) (v : Word) : (s.setHi v).run = s.run := rfl
@[simp] theorem State.setHi_params (s : State) (v : Word) : (s.setHi v).params = s.params := rfl
@[simp] theorem State.setHi_inPorts (s : State) (v : Word) : (s.setHi v).inPorts = s.inPorts := rfl
@[simp] theorem State.setHi_outPorts (s : State) (v : Word) : (s.setHi v).outPorts = s.outPorts := rfl
@[simp] theorem State.setHi_divUses (s : State) (v : Word) : (s.setHi v).divUses = s.divUses := rfl

/-! ### setLo -/

@[simp] theorem State.setLo_gpr (s : State) (v : Word) : (s.setLo v).gpr = s.gpr := rfl
@[simp] theorem State.setLo_pc (s : State) (v : Word) : (s.setLo v).pc = s.pc := rfl
@[simp] theorem State.setLo_ds (s : State) (v : Word) : (s.setLo v).ds = s.ds := rfl
@[simp] theorem State.setLo_hs (s : State) (v : Word) : (s.setLo v).hs = s.hs := rfl
@[simp] theorem State.setLo_he (s : State) (v : Word) : (s.setLo v).he = s.he := rfl
@[simp] theorem State.setLo_sp (s : State) (v : Word) : (s.setLo v).sp = s.sp := rfl
@[simp] theorem State.setLo_fp (s : State) (v : Word) : (s.setLo v).fp = s.fp := rfl
@[simp] theorem State.setLo_ir (s : State) (v : Word) : (s.setLo v).ir = s.ir := rfl
@[simp] theorem State.setLo_stat (s : State) (v : Word) : (s.setLo v).stat = s.stat := rfl
@[simp] theorem State.setLo_err (s : State) (v : Word) : (s.setLo v).err = s.err := rfl
@[simp] theorem State.setLo_hi (s : State) (v : Word) : (s.setLo v).hi = s.hi := rfl
@[simp] theorem State.setLo_lo (s : State) (v : Word) : (s.setLo v).lo = v := rfl
@[simp] theorem State.setLo_cmpr (s : State) (v : Word) : (s.setLo v).cmpr = s.cmpr := rfl
@[simp] theorem State.setLo_mem (s : State) (v : Word) : (s.setLo v).mem = s.mem := rfl
@[simp] theorem State.setLo_run (s : State) (v : Word) : (s.setLo v).run = s.run := rfl
@[simp] theorem State.setLo_params (s : State) (v : Word) : (s.setLo v).params = s.params := rfl
@[simp] theorem State.setLo_inPorts (s : State) (v : Word) : (s.setLo v).inPorts = s.inPorts := rfl
@[simp] theorem State.setLo_outPorts (s : State) (v : Word) : (s.setLo v).outPorts = s.outPorts := rfl
@[simp] theorem State.setLo_divUses (s : State) (v : Word) : (s.setLo v).divUses = s.divUses := rfl

/-! ### setCmpr -/

@[simp] theorem State.setCmpr_gpr (s : State) (v : Word) : (s.setCmpr v).gpr = s.gpr := rfl
@[simp] theorem State.setCmpr_pc (s : State) (v : Word) : (s.setCmpr v).pc = s.pc := rfl
@[simp] theorem State.setCmpr_ds (s : State) (v : Word) : (s.setCmpr v).ds = s.ds := rfl
@[simp] theorem State.setCmpr_hs (s : State) (v : Word) : (s.setCmpr v).hs = s.hs := rfl
@[simp] theorem State.setCmpr_he (s : State) (v : Word) : (s.setCmpr v).he = s.he := rfl
@[simp] theorem State.setCmpr_sp (s : State) (v : Word) : (s.setCmpr v).sp = s.sp := rfl
@[simp] theorem State.setCmpr_fp (s : State) (v : Word) : (s.setCmpr v).fp = s.fp := rfl
@[simp] theorem State.setCmpr_ir (s : State) (v : Word) : (s.setCmpr v).ir = s.ir := rfl
@[simp] theorem State.setCmpr_stat (s : State) (v : Word) : (s.setCmpr v).stat = s.stat := rfl
@[simp] theorem State.setCmpr_err (s : State) (v : Word) : (s.setCmpr v).err = s.err := rfl
@[simp] theorem State.setCmpr_hi (s : State) (v : Word) : (s.setCmpr v).hi = s.hi := rfl
@[simp] theorem State.setCmpr_lo (s : State) (v : Word) : (s.setCmpr v).lo = s.lo := rfl
@[simp] theorem State.setCmpr_cmpr (s : State) (v : Word) : (s.setCmpr v).cmpr = v := rfl
@[simp] theorem State.setCmpr_mem (s : State) (v : Word) : (s.setCmpr v).mem = s.mem := rfl
@[simp] theorem State.setCmpr_run (s : State) (v : Word) : (s.setCmpr v).run = s.run := rfl
@[simp] theorem State.setCmpr_params (s : State) (v : Word) : (s.setCmpr v).params = s.params := rfl
@[simp] theorem State.setCmpr_inPorts (s : State) (v : Word) : (s.setCmpr v).inPorts = s.inPorts := rfl
@[simp] theorem State.setCmpr_outPorts (s : State) (v : Word) : (s.setCmpr v).outPorts = s.outPorts := rfl
@[simp] theorem State.setCmpr_divUses (s : State) (v : Word) : (s.setCmpr v).divUses = s.divUses := rfl

/-! ### setMem -/

@[simp] theorem State.setMem_gpr (s : State) (m : Memory) : (s.setMem m).gpr = s.gpr := rfl
@[simp] theorem State.setMem_pc (s : State) (m : Memory) : (s.setMem m).pc = s.pc := rfl
@[simp] theorem State.setMem_ds (s : State) (m : Memory) : (s.setMem m).ds = s.ds := rfl
@[simp] theorem State.setMem_hs (s : State) (m : Memory) : (s.setMem m).hs = s.hs := rfl
@[simp] theorem State.setMem_he (s : State) (m : Memory) : (s.setMem m).he = s.he := rfl
@[simp] theorem State.setMem_sp (s : State) (m : Memory) : (s.setMem m).sp = s.sp := rfl
@[simp] theorem State.setMem_fp (s : State) (m : Memory) : (s.setMem m).fp = s.fp := rfl
@[simp] theorem State.setMem_ir (s : State) (m : Memory) : (s.setMem m).ir = s.ir := rfl
@[simp] theorem State.setMem_stat (s : State) (m : Memory) : (s.setMem m).stat = s.stat := rfl
@[simp] theorem State.setMem_err (s : State) (m : Memory) : (s.setMem m).err = s.err := rfl
@[simp] theorem State.setMem_hi (s : State) (m : Memory) : (s.setMem m).hi = s.hi := rfl
@[simp] theorem State.setMem_lo (s : State) (m : Memory) : (s.setMem m).lo = s.lo := rfl
@[simp] theorem State.setMem_cmpr (s : State) (m : Memory) : (s.setMem m).cmpr = s.cmpr := rfl
@[simp] theorem State.setMem_mem (s : State) (m : Memory) : (s.setMem m).mem = m := rfl
@[simp] theorem State.setMem_run (s : State) (m : Memory) : (s.setMem m).run = s.run := rfl
@[simp] theorem State.setMem_params (s : State) (m : Memory) : (s.setMem m).params = s.params := rfl
@[simp] theorem State.setMem_inPorts (s : State) (m : Memory) : (s.setMem m).inPorts = s.inPorts := rfl
@[simp] theorem State.setMem_outPorts (s : State) (m : Memory) : (s.setMem m).outPorts = s.outPorts := rfl
@[simp] theorem State.setMem_divUses (s : State) (m : Memory) : (s.setMem m).divUses = s.divUses := rfl

/-! ### halt -/

@[simp] theorem State.halt_gpr (s : State) : (s.halt).gpr = s.gpr := rfl
@[simp] theorem State.halt_pc (s : State) : (s.halt).pc = s.pc := rfl
@[simp] theorem State.halt_ds (s : State) : (s.halt).ds = s.ds := rfl
@[simp] theorem State.halt_hs (s : State) : (s.halt).hs = s.hs := rfl
@[simp] theorem State.halt_he (s : State) : (s.halt).he = s.he := rfl
@[simp] theorem State.halt_sp (s : State) : (s.halt).sp = s.sp := rfl
@[simp] theorem State.halt_fp (s : State) : (s.halt).fp = s.fp := rfl
@[simp] theorem State.halt_ir (s : State) : (s.halt).ir = s.ir := rfl
@[simp] theorem State.halt_stat (s : State) : (s.halt).stat = s.stat := rfl
@[simp] theorem State.halt_err (s : State) : (s.halt).err = s.err := rfl
@[simp] theorem State.halt_hi (s : State) : (s.halt).hi = s.hi := rfl
@[simp] theorem State.halt_lo (s : State) : (s.halt).lo = s.lo := rfl
@[simp] theorem State.halt_cmpr (s : State) : (s.halt).cmpr = s.cmpr := rfl
@[simp] theorem State.halt_mem (s : State) : (s.halt).mem = s.mem := rfl
@[simp] theorem State.halt_run (s : State) : (s.halt).run = .halted := rfl
@[simp] theorem State.halt_params (s : State) : (s.halt).params = s.params := rfl
@[simp] theorem State.halt_inPorts (s : State) : (s.halt).inPorts = s.inPorts := rfl
@[simp] theorem State.halt_outPorts (s : State) : (s.halt).outPorts = s.outPorts := rfl
@[simp] theorem State.halt_divUses (s : State) : (s.halt).divUses = s.divUses := rfl

/-! ### setInPort -/

@[simp] theorem State.setInPort_gpr (s : State) (p : Fin 8) (q : InPort) : (s.setInPort p q).gpr = s.gpr := rfl
@[simp] theorem State.setInPort_pc (s : State) (p : Fin 8) (q : InPort) : (s.setInPort p q).pc = s.pc := rfl
@[simp] theorem State.setInPort_ds (s : State) (p : Fin 8) (q : InPort) : (s.setInPort p q).ds = s.ds := rfl
@[simp] theorem State.setInPort_hs (s : State) (p : Fin 8) (q : InPort) : (s.setInPort p q).hs = s.hs := rfl
@[simp] theorem State.setInPort_he (s : State) (p : Fin 8) (q : InPort) : (s.setInPort p q).he = s.he := rfl
@[simp] theorem State.setInPort_sp (s : State) (p : Fin 8) (q : InPort) : (s.setInPort p q).sp = s.sp := rfl
@[simp] theorem State.setInPort_fp (s : State) (p : Fin 8) (q : InPort) : (s.setInPort p q).fp = s.fp := rfl
@[simp] theorem State.setInPort_ir (s : State) (p : Fin 8) (q : InPort) : (s.setInPort p q).ir = s.ir := rfl
@[simp] theorem State.setInPort_stat (s : State) (p : Fin 8) (q : InPort) : (s.setInPort p q).stat = s.stat := rfl
@[simp] theorem State.setInPort_err (s : State) (p : Fin 8) (q : InPort) : (s.setInPort p q).err = s.err := rfl
@[simp] theorem State.setInPort_hi (s : State) (p : Fin 8) (q : InPort) : (s.setInPort p q).hi = s.hi := rfl
@[simp] theorem State.setInPort_lo (s : State) (p : Fin 8) (q : InPort) : (s.setInPort p q).lo = s.lo := rfl
@[simp] theorem State.setInPort_cmpr (s : State) (p : Fin 8) (q : InPort) : (s.setInPort p q).cmpr = s.cmpr := rfl
@[simp] theorem State.setInPort_mem (s : State) (p : Fin 8) (q : InPort) : (s.setInPort p q).mem = s.mem := rfl
@[simp] theorem State.setInPort_run (s : State) (p : Fin 8) (q : InPort) : (s.setInPort p q).run = s.run := rfl
@[simp] theorem State.setInPort_params (s : State) (p : Fin 8) (q : InPort) : (s.setInPort p q).params = s.params := rfl
@[simp] theorem State.setInPort_inPorts (s : State) (p : Fin 8) (q : InPort) : (s.setInPort p q).inPorts = s.inPorts.set p.val q p.isLt := rfl
@[simp] theorem State.setInPort_outPorts (s : State) (p : Fin 8) (q : InPort) : (s.setInPort p q).outPorts = s.outPorts := rfl
@[simp] theorem State.setInPort_divUses (s : State) (p : Fin 8) (q : InPort) : (s.setInPort p q).divUses = s.divUses := rfl

/-! ### setOutPort -/

@[simp] theorem State.setOutPort_gpr (s : State) (p : Fin 8) (q : OutPort) : (s.setOutPort p q).gpr = s.gpr := rfl
@[simp] theorem State.setOutPort_pc (s : State) (p : Fin 8) (q : OutPort) : (s.setOutPort p q).pc = s.pc := rfl
@[simp] theorem State.setOutPort_ds (s : State) (p : Fin 8) (q : OutPort) : (s.setOutPort p q).ds = s.ds := rfl
@[simp] theorem State.setOutPort_hs (s : State) (p : Fin 8) (q : OutPort) : (s.setOutPort p q).hs = s.hs := rfl
@[simp] theorem State.setOutPort_he (s : State) (p : Fin 8) (q : OutPort) : (s.setOutPort p q).he = s.he := rfl
@[simp] theorem State.setOutPort_sp (s : State) (p : Fin 8) (q : OutPort) : (s.setOutPort p q).sp = s.sp := rfl
@[simp] theorem State.setOutPort_fp (s : State) (p : Fin 8) (q : OutPort) : (s.setOutPort p q).fp = s.fp := rfl
@[simp] theorem State.setOutPort_ir (s : State) (p : Fin 8) (q : OutPort) : (s.setOutPort p q).ir = s.ir := rfl
@[simp] theorem State.setOutPort_stat (s : State) (p : Fin 8) (q : OutPort) : (s.setOutPort p q).stat = s.stat := rfl
@[simp] theorem State.setOutPort_err (s : State) (p : Fin 8) (q : OutPort) : (s.setOutPort p q).err = s.err := rfl
@[simp] theorem State.setOutPort_hi (s : State) (p : Fin 8) (q : OutPort) : (s.setOutPort p q).hi = s.hi := rfl
@[simp] theorem State.setOutPort_lo (s : State) (p : Fin 8) (q : OutPort) : (s.setOutPort p q).lo = s.lo := rfl
@[simp] theorem State.setOutPort_cmpr (s : State) (p : Fin 8) (q : OutPort) : (s.setOutPort p q).cmpr = s.cmpr := rfl
@[simp] theorem State.setOutPort_mem (s : State) (p : Fin 8) (q : OutPort) : (s.setOutPort p q).mem = s.mem := rfl
@[simp] theorem State.setOutPort_run (s : State) (p : Fin 8) (q : OutPort) : (s.setOutPort p q).run = s.run := rfl
@[simp] theorem State.setOutPort_params (s : State) (p : Fin 8) (q : OutPort) : (s.setOutPort p q).params = s.params := rfl
@[simp] theorem State.setOutPort_inPorts (s : State) (p : Fin 8) (q : OutPort) : (s.setOutPort p q).inPorts = s.inPorts := rfl
@[simp] theorem State.setOutPort_outPorts (s : State) (p : Fin 8) (q : OutPort) : (s.setOutPort p q).outPorts = s.outPorts.set p.val q p.isLt := rfl
@[simp] theorem State.setOutPort_divUses (s : State) (p : Fin 8) (q : OutPort) : (s.setOutPort p q).divUses = s.divUses := rfl

/-! ### countDivUse -/

@[simp] theorem State.countDivUse_gpr (s : State) : (s.countDivUse).gpr = s.gpr := rfl
@[simp] theorem State.countDivUse_pc (s : State) : (s.countDivUse).pc = s.pc := rfl
@[simp] theorem State.countDivUse_ds (s : State) : (s.countDivUse).ds = s.ds := rfl
@[simp] theorem State.countDivUse_hs (s : State) : (s.countDivUse).hs = s.hs := rfl
@[simp] theorem State.countDivUse_he (s : State) : (s.countDivUse).he = s.he := rfl
@[simp] theorem State.countDivUse_sp (s : State) : (s.countDivUse).sp = s.sp := rfl
@[simp] theorem State.countDivUse_fp (s : State) : (s.countDivUse).fp = s.fp := rfl
@[simp] theorem State.countDivUse_ir (s : State) : (s.countDivUse).ir = s.ir := rfl
@[simp] theorem State.countDivUse_stat (s : State) : (s.countDivUse).stat = s.stat := rfl
@[simp] theorem State.countDivUse_err (s : State) : (s.countDivUse).err = s.err := rfl
@[simp] theorem State.countDivUse_hi (s : State) : (s.countDivUse).hi = s.hi := rfl
@[simp] theorem State.countDivUse_lo (s : State) : (s.countDivUse).lo = s.lo := rfl
@[simp] theorem State.countDivUse_cmpr (s : State) : (s.countDivUse).cmpr = s.cmpr := rfl
@[simp] theorem State.countDivUse_mem (s : State) : (s.countDivUse).mem = s.mem := rfl
@[simp] theorem State.countDivUse_run (s : State) : (s.countDivUse).run = s.run := rfl
@[simp] theorem State.countDivUse_params (s : State) : (s.countDivUse).params = s.params := rfl
@[simp] theorem State.countDivUse_inPorts (s : State) : (s.countDivUse).inPorts = s.inPorts := rfl
@[simp] theorem State.countDivUse_outPorts (s : State) : (s.countDivUse).outPorts = s.outPorts := rfl
@[simp] theorem State.countDivUse_divUses (s : State) : (s.countDivUse).divUses = s.divUses + 1 := rfl

end Sys2Proof.Machine
end

