-- ==== Sys2Proof/Laws/Ops.lean ====
section
/-! SUPPORT. One law for each shared operation that says once what it does: the provers cite these instead of
unfolding the operation. -/

namespace Sys2Proof.Machine

/-! ### What a register reads after an update -/

@[simp] theorem readReg_setGpr (s : State) (k : Fin 32) (v : Word) (r : Reg) :
    (s.setGpr k v).readReg r = if r = .gen k then v else s.readReg r := by
  cases r <;> simp [State.readReg]
  next j =>
    by_cases h : j = k
    · subst h; simp
    · have : (k : Nat) ≠ j := fun e => h (Fin.ext e.symm)
      simp [this, h]

@[simp] theorem readReg_setPc (s : State) (v : Word) (r : Reg) :
    (s.setPc v).readReg r = if r = .pc then v else s.readReg r := by cases r <;> simp [State.readReg]
@[simp] theorem readReg_setIr (s : State) (v : Word) (r : Reg) :
    (s.setIr v).readReg r = if r = .ir then v else s.readReg r := by cases r <;> simp [State.readReg]
@[simp] theorem readReg_setHe (s : State) (v : Word) (r : Reg) :
    (s.setHe v).readReg r = if r = .he then v else s.readReg r := by cases r <;> simp [State.readReg]
@[simp] theorem readReg_setSp (s : State) (v : Word) (r : Reg) :
    (s.setSp v).readReg r = if r = .sp then v else s.readReg r := by cases r <;> simp [State.readReg]
@[simp] theorem readReg_setFp (s : State) (v : Word) (r : Reg) :
    (s.setFp v).readReg r = if r = .fp then v else s.readReg r := by cases r <;> simp [State.readReg]
@[simp] theorem readReg_setStat (s : State) (v : Word) (r : Reg) :
    (s.setStat v).readReg r = if r = .stat then v else s.readReg r := by cases r <;> simp [State.readReg]
@[simp] theorem readReg_setErr (s : State) (v : Word) (r : Reg) :
    (s.setErr v).readReg r = if r = .err then v else s.readReg r := by cases r <;> simp [State.readReg]
@[simp] theorem readReg_setHi (s : State) (v : Word) (r : Reg) :
    (s.setHi v).readReg r = if r = .hi then v else s.readReg r := by cases r <;> simp [State.readReg]
@[simp] theorem readReg_setLo (s : State) (v : Word) (r : Reg) :
    (s.setLo v).readReg r = if r = .lo then v else s.readReg r := by cases r <;> simp [State.readReg]
@[simp] theorem readReg_setCmpr (s : State) (v : Word) (r : Reg) :
    (s.setCmpr v).readReg r = if r = .cmpr then v else s.readReg r := by cases r <;> simp [State.readReg]
@[simp] theorem readReg_setMem (s : State) (m : Memory) (r : Reg) : (s.setMem m).readReg r = s.readReg r := by
  cases r <;> rfl
@[simp] theorem readReg_halt (s : State) (r : Reg) : s.halt.readReg r = s.readReg r := by cases r <;> rfl
@[simp] theorem readReg_setInPort (s : State) (p : Fin 8) (q : InPort) (r : Reg) :
    (s.setInPort p q).readReg r = s.readReg r := by cases r <;> rfl
@[simp] theorem readReg_setOutPort (s : State) (p : Fin 8) (q : OutPort) (r : Reg) :
    (s.setOutPort p q).readReg r = s.readReg r := by cases r <;> rfl
@[simp] theorem readReg_countDivUse (s : State) (r : Reg) : s.countDivUse.readReg r = s.readReg r := by
  cases r <;> rfl
@[simp] theorem readReg_storeBytes (s : State) (a : Nat) (bs : List Byte) (r : Reg) :
    (s.storeBytes a bs).readReg r = s.readReg r := by cases r <;> rfl

/-! ### `putReg` -/

/-- What every register reads after the write of a destination. -/
theorem readReg_putReg (s : State) (x : Reg) (v : Word) (r : Reg) :
    (s.putReg x v).readReg r = if r = x ∧ x.writeProtected = false then v else s.readReg r := by
  cases x <;> simp [State.putReg, Reg.writeProtected]

@[simp] theorem putReg_mem (s : State) (x : Reg) (v : Word) : (s.putReg x v).mem = s.mem := by
  cases x <;> rfl
@[simp] theorem putReg_run (s : State) (x : Reg) (v : Word) : (s.putReg x v).run = s.run := by
  cases x <;> rfl
@[simp] theorem putReg_params (s : State) (x : Reg) (v : Word) : (s.putReg x v).params = s.params := by
  cases x <;> rfl
@[simp] theorem putReg_inPorts (s : State) (x : Reg) (v : Word) : (s.putReg x v).inPorts = s.inPorts := by
  cases x <;> rfl
@[simp] theorem putReg_outPorts (s : State) (x : Reg) (v : Word) : (s.putReg x v).outPorts = s.outPorts := by
  cases x <;> rfl
@[simp] theorem putReg_divUses (s : State) (x : Reg) (v : Word) : (s.putReg x v).divUses = s.divUses := by
  cases x <;> rfl
@[simp] theorem putReg_pc (s : State) (x : Reg) (v : Word) : (s.putReg x v).pc = s.pc := by
  cases x <;> rfl
@[simp] theorem putReg_ds (s : State) (x : Reg) (v : Word) : (s.putReg x v).ds = s.ds := by
  cases x <;> rfl
@[simp] theorem putReg_hs (s : State) (x : Reg) (v : Word) : (s.putReg x v).hs = s.hs := by
  cases x <;> rfl
@[simp] theorem putReg_ir (s : State) (x : Reg) (v : Word) : (s.putReg x v).ir = s.ir := by
  cases x <;> rfl

/-- What a list of changed registers says of each register, from its first entry on. -/
@[simp] theorem lookup_cons_getD (x : Reg) (v : Word) (regs : List (Reg × Word)) (r : Reg) (old : Word) :
    (List.lookup r ((x, v) :: regs)).getD old = if r = x then v else (regs.lookup r).getD old := by
  by_cases hr : r = x
  · subst hr; simp [List.lookup]
  · simp [List.lookup, hr, beq_eq_false_iff_ne.mpr hr]

@[simp] theorem lookup_nil_getD (r : Reg) (old : Word) :
    (List.lookup r ([] : List (Reg × Word))).getD old = old := rfl

/-- What the list of changed registers of a write says of each register. -/
theorem lookup_written (x : Reg) (v : Word) (r : Reg) (old : Word) :
    ((written x v).lookup r).getD old = if r = x ∧ x.writeProtected = false then v else old := by
  unfold written
  cases hx : x.writeProtected with
  | true => simp
  | false => simp

/-- The accepted write of a destination, as a frame. -/
theorem putReg_becomes (s : State) (x : Reg) (v : Word) : Becomes s (s.putReg x v) (written x v) 0 [] := by
  refine ⟨fun r => ?_, fun b => ?_, ?_⟩
  · rw [readReg_putReg, lookup_written]
  · simp only [putReg_mem, List.length_nil]
    rw [if_neg (by omega)]
  · exact ⟨putReg_run s x v, putReg_params s x v, putReg_inPorts s x v, putReg_outPorts s x v, putReg_divUses s x v⟩

/-! ### Checks and completion -/

@[simp] theorem firstCause_nil : firstCause [] = none := rfl
@[simp] theorem firstCause_none (rest : List (Option Cause)) : firstCause (none :: rest) = firstCause rest := rfl
@[simp] theorem firstCause_some (c : Cause) (rest : List (Option Cause)) : firstCause (some c :: rest) = some c := rfl

/-- No check raises exactly when each of them answers nothing. -/
theorem firstCause_eq_none {checks : List (Option Cause)} : firstCause checks = none ↔ ∀ c ∈ checks, c = none := by
  induction checks with
  | nil => simp
  | cons c rest ih => cases c <;> simp [ih]

/-- An instruction whose checks all pass. -/
theorem complete_of_none {s t : State} {checks : List (Option Cause)} (h : firstCause checks = none) :
    complete s checks t = .next t := by simp [complete, h]

/-- An instruction one of whose checks raises. -/
theorem complete_of_some {s t : State} {checks : List (Option Cause)} {c : Cause} (h : firstCause checks = some c) :
    complete s checks t = .next (raiseFault c s) := by simp [complete, h]

/-- All an instruction of checks and a result can do. -/
theorem complete_cases {s t u : State} {checks : List (Option Cause)} (h : complete s checks t = .next u) :
    (firstCause checks = none ∧ u = t) ∨ ∃ c, firstCause checks = some c ∧ u = raiseFault c s := by
  unfold complete at h
  split at h
  · next c hc => exact .inr ⟨c, hc, by simpa using h.symm⟩
  · next hc => exact .inl ⟨hc, by simpa using h.symm⟩

/-- The check of a destination passes exactly when the destination accepts the value. -/
theorem destCheck_eq_none {s : State} {x : Reg} {v : Word} : destCheck s x v = none ↔ Accepts s x v := by
  cases x <;> cases hw : s.params.wpWrite <;> simp [destCheck, Accepts, Reg.writeProtected, hw]
  all_goals
    split
    · simp; omega
    · split <;> simp <;> omega

/-- The check of a destination raises a cause exactly when the destination rejects the value with it. -/
theorem destCheck_eq_some {s : State} {x : Reg} {v : Word} {c : Cause} :
    destCheck s x v = some c ↔ Rejects s x v c := by
  cases x <;> cases hw : s.params.wpWrite <;> simp [destCheck, Rejects, Reg.writeProtected, hw]
  all_goals
    repeat' split
    all_goals cases c <;> simp <;> omega

/-- A destination accepts a value or rejects it. -/
theorem accepts_or_rejects (s : State) (x : Reg) (v : Word) : Accepts s x v ∨ ∃ c, Rejects s x v c := by
  cases h : destCheck s x v with
  | none => exact .inl (destCheck_eq_none.mp h)
  | some c => exact .inr ⟨c, destCheck_eq_some.mp h⟩

/-- A read check passes exactly when every byte exists. -/
theorem readCheck_eq_none {s : State} {a n : Nat} : readCheck s a n = none ↔ (n ≠ 0 → a + n ≤ s.params.memSize) := by
  unfold readCheck; split <;> simp <;> omega

/-- A read check raises an invalid address and nothing else. -/
theorem readCheck_eq_some {s : State} {a n : Nat} {c : Cause} :
    readCheck s a n = some c ↔ (n ≠ 0 ∧ s.params.memSize < a + n) ∧ c = .invalidAddress := by
  unfold readCheck; split <;> simp_all [eq_comm]

/-- A range touches the code segment exactly when one of its bytes lies in it. -/
theorem touchesCode_eq_false {s : State} {a n : Nat} : touchesCode s a n = false ↔ Unprotected s a n := by
  have key : touchesCode s a n = true ↔ n ≠ 0 ∧ 256 < s.ds.toNat ∧ a < s.ds.toNat ∧ 256 < a + n := by
    simp [touchesCode, and_assoc]
  rw [← Bool.not_eq_true, key]
  constructor
  · intro h b h1 h2 h3; omega
  · intro h hc
    by_cases ha : 256 ≤ a
    · exact h a (by omega) (by omega) ⟨ha, by omega⟩
    · exact h 256 (by omega) (by omega) ⟨by omega, by omega⟩

/-- A write check passes exactly when every byte exists and none is protected. -/
theorem writeCheck_eq_none {s : State} {a n : Nat} :
    writeCheck s a n = none ↔ (n ≠ 0 → a + n ≤ s.params.memSize) ∧ Unprotected s a n := by
  unfold writeCheck
  cases h : readCheck s a n with
  | none => simp [← touchesCode_eq_false]; exact fun _ => readCheck_eq_none.mp h
  | some c =>
    have := (readCheck_eq_some.mp h).1
    simp; intro h; omega

/-- A push is possible exactly when its check passes. -/
theorem pushCheck_eq_none {s : State} : pushCheck s = none ↔ CanPush s := by
  unfold pushCheck
  split
  · simp; omega
  · rw [writeCheck_eq_none]
    constructor
    · exact fun h => ⟨by omega, by have := h.1; omega, h.2⟩
    · exact fun h => ⟨fun _ => by have := h.2.1; omega, h.2.2⟩

/-- A jump target is accepted exactly when it lies in the code segment. -/
theorem targetCheck_eq_none {s : State} {t : Int} : targetCheck s t = none ↔ InCode s t := by
  unfold targetCheck InCode; split <;> simp <;> omega

/-- A jump target is turned down with an access violation and nothing else. -/
theorem targetCheck_eq_some {s : State} {t : Int} {c : Cause} :
    targetCheck s t = some c ↔ ¬InCode s t ∧ c = .accessViolation := by
  unfold targetCheck InCode; split <;> simp [eq_comm] <;> omega

/-! ### Push and interrupt -/

/-- What a push that is possible changes. -/
theorem pushWord_becomes {s : State} (v : Word) :
    Becomes s (s.pushWord v) [(.sp, BitVec.ofNat 32 (s.sp.toNat - 4))] (s.sp.toNat - 4) (bytesOfWord v) := by
  refine ⟨fun r => ?_, fun b => ?_, ?_⟩
  · simp [State.pushWord]
  · simp [State.pushWord, State.storeBytes, Memory.read_writeBytes]
  · exact ⟨rfl, rfl, rfl, rfl, rfl⟩

/-- A word is read back where its bytes stand after a step. -/
theorem readWord_memoryAfter {s t : State} {a : Nat} {w : Word} (h : MemoryAfter s t a (bytesOfWord w)) :
    t.mem.readWord a = w := by
  have hl : (bytesOfWord w).length = 4 := rfl
  rw [Memory.readWord, h a, h (a + 1), h (a + 2), h (a + 3), if_pos (by omega), if_pos (by omega), if_pos (by omega),
    if_pos (by omega), Nat.sub_self, Nat.add_sub_cancel_left, Nat.add_sub_cancel_left, Nat.add_sub_cancel_left]
  exact wordOfBytes_bytes w

/-- All an interrupt can do: the machine halts, or a push that is possible and a jump to the table entry. -/
theorem interrupt_cases (n : Fin 64) (s : State) :
    ((tableEntry s n = 0 ∨ ¬CanPush s) ∧ interrupt n s = s.halt) ∨
      (tableEntry s n ≠ 0 ∧ CanPush s ∧ interrupt n s = (s.pushWord s.pc).setPc (tableEntry s n)) := by
  unfold interrupt
  by_cases he : tableEntry s n = 0
  · exact .inl ⟨.inl he, by simp [he]⟩
  · rw [if_neg he]
    cases hp : pushCheck s with
    | none => exact .inr ⟨he, pushCheck_eq_none.mp hp, rfl⟩
    | some c => exact .inl ⟨.inr fun h => by simp [pushCheck_eq_none.mpr h] at hp, rfl⟩

/-- An interrupt touches no device. -/
@[simp] theorem interrupt_inPorts (n : Fin 64) (s : State) : (interrupt n s).inPorts = s.inPorts := by
  rcases interrupt_cases n s with ⟨_, h⟩ | ⟨_, _, h⟩ <;> rw [h] <;> rfl
@[simp] theorem interrupt_outPorts (n : Fin 64) (s : State) : (interrupt n s).outPorts = s.outPorts := by
  rcases interrupt_cases n s with ⟨_, h⟩ | ⟨_, _, h⟩ <;> rw [h] <;> rfl
@[simp] theorem raiseFault_inPorts (c : Cause) (s : State) : (raiseFault c s).inPorts = s.inPorts := by
  simp [raiseFault]
@[simp] theorem raiseFault_outPorts (c : Cause) (s : State) : (raiseFault c s).outPorts = s.outPorts := by
  simp [raiseFault]

end Sys2Proof.Machine
end

