-- ==== Sys2Proof/Laws/Results.lean ====
section
/-! SUPPORT. One law for each operation that leaves a result: what it writes and what it leaves alone, and the results
of the conversions, shifts and rotations in numbers. -/

namespace Sys2Proof.Machine

/-! ### Frames of the single updates -/

theorem setPc_becomes (s : State) (v : Word) : Becomes s (s.setPc v) [(.pc, v)] 0 [] :=
  ⟨fun r => by simp, fun b => by rw [if_neg (by simp only [List.length_nil]; omega)]; rfl, rfl, rfl, rfl, rfl, rfl⟩

theorem setCmpr_becomes (s : State) (v : Word) : Becomes s (s.setCmpr v) [(.cmpr, v)] 0 [] :=
  ⟨fun r => by simp, fun b => by rw [if_neg (by simp only [List.length_nil]; omega)]; rfl, rfl, rfl, rfl, rfl, rfl⟩

theorem setHi_setLo_becomes (s : State) (h l : Word) :
    Becomes s ((s.setHi h).setLo l) [(.hi, h), (.lo, l)] 0 [] :=
  ⟨fun r => by cases r <;> simp, fun b => by rw [if_neg (by simp only [List.length_nil]; omega)]; rfl,
    rfl, rfl, rfl, rfl, rfl⟩

theorem storeBytes_becomes (s : State) (a : Nat) (bs : List Byte) : Becomes s (s.storeBytes a bs) [] a bs :=
  ⟨fun r => by simp, fun b => Memory.read_writeBytes _ _ _ _, rfl, rfl, rfl, rfl, rfl⟩

/-! ### Checks that raise -/

/-- A write past the end of the memory. -/
theorem writeCheck_invalidAddress {s : State} {a n : Nat} (hn : n ≠ 0) (h : s.params.memSize < a + n) :
    writeCheck s a n = some .invalidAddress := by
  simp [writeCheck, readCheck_eq_some.mpr ⟨⟨hn, h⟩, rfl⟩]

/-- A write to bytes that exist, one of them in the code segment. -/
theorem writeCheck_accessViolation {s : State} {a n : Nat} (he : a + n ≤ s.params.memSize) (h : ¬Unprotected s a n) :
    writeCheck s a n = some .accessViolation := by
  simp only [writeCheck, readCheck_eq_none.mpr fun _ => he]
  rw [if_pos]
  by_contra hc
  exact h (touchesCode_eq_false.mp (by simpa using hc))

/-- The check of a push that stays above HE is the check of its store. -/
theorem pushCheck_of_lt {s : State} (h : s.he.toNat + 4 < s.sp.toNat) :
    pushCheck s = writeCheck s (s.sp.toNat - 4) 4 := by
  unfold pushCheck; rw [if_neg (by omega)]

/-! ### Results in a destination -/

/-- A result whose checks pass and whose destination accepts it. -/
theorem writeResult_of_accepts {s : State} {checks : List (Option Cause)} {x : Reg} {v : Word}
    (hc : firstCause checks = none) (ha : Accepts s x v) :
    writeResult s checks x v = .next (s.putReg x v) := by
  apply complete_of_none
  rw [firstCause_eq_none] at hc ⊢
  intro c hm
  rcases List.mem_append.mp hm with h | h
  · exact hc c h
  · rw [List.mem_singleton.mp h]; exact destCheck_eq_none.mpr ha

/-- A result whose checks pass and whose destination rejects it. -/
theorem writeResult_of_rejects {s : State} {checks : List (Option Cause)} {x : Reg} {v : Word} {c : Cause}
    (hc : firstCause checks = none) (hr : Rejects s x v c) :
    writeResult s checks x v = .next (raiseFault c s) := by
  apply complete_of_some
  induction checks with
  | nil => simp [destCheck_eq_some.mpr hr]
  | cons d rest ih => cases d with
    | none => simpa using ih (by simpa using hc)
    | some d => simp at hc

/-- A result written to ZERO under `WP_WRITE = discard`: its own checks raise, or the state stays as it was. -/
theorem writeResult_zero {s : State} {checks : List (Option Cause)} {v : Word} (h : s.params.wpWrite = .discard) :
    writeResult s checks .zero v = .next s ∨ ∃ c, writeResult s checks .zero v = .next (raiseFault c s) := by
  cases hc : firstCause checks with
  | none => exact .inl (writeResult_of_accepts hc ⟨fun _ => h, by simp, by simp⟩)
  | some c =>
    refine .inr ⟨c, complete_of_some ?_⟩
    induction checks with
    | nil => simp at hc
    | cons d rest ih => cases d with
      | none => simpa using ih (by simpa using hc)
      | some d => simpa using hc

/-- An overflow under `OVERFLOW_DEST = unchanged`. -/
theorem arithmeticResult_unchanged {s : State} {x : Reg} {r : Int} (h : s.params.overflowDest = .unchanged) :
    arithmeticResult s false x r = .next (raiseFault .overflow s) := by
  simp [arithmeticResult, overflowBase, h]

/-- An overflow under `OVERFLOW_DEST = wrapped` whose destination accepts the wrapped result. -/
theorem arithmeticResult_wrapped {s : State} {x : Reg} {r : Int} (h : s.params.overflowDest = .wrapped)
    (ha : Accepts s x (w32 r)) :
    arithmeticResult s false x r = .next (raiseFault .overflow (s.putReg x (w32 r))) := by
  simp [arithmeticResult, overflowBase, h, destCheck_eq_none.mpr ha]

/-- An overflow under `OVERFLOW_DEST = wrapped` whose destination does not accept the wrapped result. -/
theorem arithmeticResult_wrapped_rejected {s : State} {x : Reg} {r : Int} (h : s.params.overflowDest = .wrapped)
    (ha : ¬Accepts s x (w32 r)) : arithmeticResult s false x r = .next (raiseFault .overflow s) := by
  cases hd : destCheck s x (w32 r) with
  | none => exact absurd (destCheck_eq_none.mp hd) ha
  | some c => simp [arithmeticResult, overflowBase, h, hd]

/-- A sum or difference written to ZERO under `WP_WRITE = discard`. -/
theorem arithmeticResult_zero {s : State} {f : Bool} {r : Int} (h : s.params.wpWrite = .discard) :
    arithmeticResult s f .zero r = .next s ∨ ∃ c, arithmeticResult s f .zero r = .next (raiseFault c s) := by
  unfold arithmeticResult overflowBase
  split
  · exact writeResult_zero h
  · refine .inr ⟨.overflow, ?_⟩
    repeat' split
    all_goals rfl

/-! ### Conversions -/

theorem toInt_bounds (v : Word) : -2 ^ 31 ≤ v.toInt ∧ v.toInt ≤ 2 ^ 31 - 1 := by
  have h1 := BitVec.toInt_lt (x := v)
  have h2 := BitVec.le_toInt (x := v)
  omega

theorem w32_of_toInt {v : Word} {r : Int} (h : v.toInt = r) : w32 r = v := by subst h; simp [w32]

theorem w32_of_toNat {v : Word} {r : Int} (h : (v.toNat : Int) = r) : w32 r = v := by
  subst h; apply BitVec.eq_of_toNat_eq; simp [w32]

theorem w32_toInt {r : Int} (h : fitsSigned r = true) : (w32 r).toInt = r := by
  simp [fitsSigned] at h
  simp only [w32, BitVec.toInt_ofInt, Int.bmod]
  split <;> omega

theorem w32_toNat {r : Int} (h : fitsUnsigned r = true) : ((w32 r).toNat : Int) = r := by
  simp [fitsUnsigned] at h
  simp [w32]; omega

theorem fitsSigned_toInt (v : Word) : fitsSigned v.toInt = true := by
  have := toInt_bounds v
  simp [fitsSigned]; omega

theorem fitsUnsigned_toNat (v : Word) : fitsUnsigned v.toNat = true := by
  have := v.isLt
  simp [fitsUnsigned]; omega

theorem zext8_eq (n : BitVec 8) : zext8 n = n.setWidth 32 := by apply BitVec.eq_of_toNat_eq; simp [zext8]

theorem zext16_eq (n : BitVec 16) : zext16 n = n.setWidth 32 := by apply BitVec.eq_of_toNat_eq; simp [zext16]

/-- The remainder of the division truncating toward zero, in the library's terms. -/
theorem remainder_eq_tmod (a b : Int) : remainder a b = a.tmod b := by rw [remainder, Int.tmod_def]

/-! ### Shifts and rotations -/

theorem shiftLeft_toNat (v : Word) (n : Nat) : (shiftLeft v n).toNat = v.toNat * 2 ^ n % 2 ^ 32 := by
  unfold shiftLeft
  split
  · next h =>
    have : 2 ^ n = 2 ^ 32 * 2 ^ (n - 32) := by rw [← pow_add]; congr 1; omega
    rw [this, ← Nat.mul_assoc, Nat.mul_right_comm, Nat.mul_mod_left]; rfl
  · simp [Nat.shiftLeft_eq]

theorem shiftRight_toNat (v : Word) (n : Nat) : (shiftRight v n).toNat = v.toNat / 2 ^ n := by
  unfold shiftRight
  split
  · next h =>
    have h2 : 2 ^ 32 ≤ 2 ^ n := Nat.pow_le_pow_right (by omega) h
    have := v.isLt
    rw [Nat.div_eq_of_lt (by omega)]; rfl
  · simp [Nat.shiftRight_eq_div_pow]

theorem shiftRightArith_toInt (v : Word) (n : Nat) : (shiftRightArith v n).toInt = v.toInt.fdiv (2 ^ n) := by
  unfold shiftRightArith
  have hpos : (0 : Int) < 2 ^ n := by positivity
  rw [Int.fdiv_eq_ediv_of_nonneg _ hpos.le]
  split
  · next h =>
    have h2 : (2 : Int) ^ 32 ≤ 2 ^ n := by exact_mod_cast Nat.pow_le_pow_right (by omega) h
    have := toInt_bounds v
    rw [BitVec.msb_eq_toInt]
    by_cases hneg : v.toInt < 0
    · simp only [hneg, decide_true, if_true]
      symm
      change _ = (-1 : Int)
      rw [Int.ediv_eq_iff_of_pos hpos]
      constructor <;> omega
    · simp only [hneg, decide_false]
      rw [Int.ediv_eq_zero_of_lt (by omega) (by omega)]; rfl
  · rw [BitVec.toInt_sshiftRight, Int.shiftRight_eq_div_pow]; norm_cast

/-! ### Devices -/

theorem inputAnswer_length (s : State) (p : Fin 8) (n : Nat) : (inputAnswer s p n).length ≤ n := by
  unfold inputAnswer
  split
  · simp
  · split <;> simp

theorem outputAnswer_le (s : State) (p : Fin 8) (offered : List Byte) : outputAnswer s p offered ≤ offered.length := by
  unfold outputAnswer
  split
  · exact Nat.zero_le _
  · split <;> exact Nat.min_le_right _ _

@[simp] theorem readReg_takeInput (s : State) (p : Fin 8) (n : Nat) (r : Reg) :
    (s.takeInput p n).readReg r = s.readReg r := by unfold State.takeInput; split <;> simp
@[simp] theorem takeInput_mem (s : State) (p : Fin 8) (n : Nat) : (s.takeInput p n).mem = s.mem := by
  unfold State.takeInput; split <;> simp
@[simp] theorem takeInput_run (s : State) (p : Fin 8) (n : Nat) : (s.takeInput p n).run = s.run := by
  unfold State.takeInput; split <;> simp
@[simp] theorem takeInput_params (s : State) (p : Fin 8) (n : Nat) : (s.takeInput p n).params = s.params := by
  unfold State.takeInput; split <;> simp
@[simp] theorem takeInput_outPorts (s : State) (p : Fin 8) (n : Nat) : (s.takeInput p n).outPorts = s.outPorts := by
  unfold State.takeInput; split <;> simp
@[simp] theorem takeInput_divUses (s : State) (p : Fin 8) (n : Nat) : (s.takeInput p n).divUses = s.divUses := by
  unfold State.takeInput; split <;> simp
@[simp] theorem readReg_giveOutput (s : State) (p : Fin 8) (bs : List Byte) (r : Reg) :
    (s.giveOutput p bs).readReg r = s.readReg r := by unfold State.giveOutput; split <;> simp
@[simp] theorem giveOutput_mem (s : State) (p : Fin 8) (bs : List Byte) : (s.giveOutput p bs).mem = s.mem := by
  unfold State.giveOutput; split <;> simp
@[simp] theorem giveOutput_run (s : State) (p : Fin 8) (bs : List Byte) : (s.giveOutput p bs).run = s.run := by
  unfold State.giveOutput; split <;> simp
@[simp] theorem giveOutput_params (s : State) (p : Fin 8) (bs : List Byte) :
    (s.giveOutput p bs).params = s.params := by unfold State.giveOutput; split <;> simp
@[simp] theorem giveOutput_inPorts (s : State) (p : Fin 8) (bs : List Byte) :
    (s.giveOutput p bs).inPorts = s.inPorts := by unfold State.giveOutput; split <;> simp
@[simp] theorem giveOutput_divUses (s : State) (p : Fin 8) (bs : List Byte) :
    (s.giveOutput p bs).divUses = s.divUses := by unfold State.giveOutput; split <;> simp

end Sys2Proof.Machine
end

