-- ==== Sys2Proof/Laws/Effects.lean ====
section
/-! SUPPORT. What an instruction can do at all, said once: every next state of `exec` has one of the seventeen forms of
`Effect`. The invariants are shown form by form from it. -/

namespace Sys2Proof.Machine

/-- The instruction is one of the three compares. -/
def IsCompare (i : Instr) : Prop :=
  (∃ x y, i = .cmp x y) ∨ (∃ x y, i = .cmpu x y) ∨ (∃ x n, i = .cmpi x n)

/-- The instruction is one of the seven that write HI and LO. -/
def WritesHiLo (i : Instr) : Prop :=
  (∃ x y, i = .mul x y) ∨ (∃ x y, i = .mulu x y) ∨ (∃ x n, i = .muli x n) ∨ (∃ x y, i = .div x y) ∨
    (∃ x y, i = .divu x y) ∨ (∃ x n, i = .divi x n) ∨ (∃ x n, i = .divi2 x n)

/-- The instruction divides -2^31 by -1 in the state `s`. -/
def DividesOpen (i : Instr) (s : State) : Prop :=
  (∃ x y, i = .div x y ∧ (s.readReg x).toInt = -2 ^ 31 ∧ (s.readReg y).toInt = -1) ∨
    (∃ x n, i = .divi x n ∧ (s.readReg x).toInt = -2 ^ 31 ∧ n.toInt = -1)

/-- The forms a next state of instruction `i` from the state `s` can have, with the checks that have passed. -/
inductive Effect (i : Instr) (s : State) : State → Prop
  | raise (c : Cause) : Effect i s (raiseFault c s)
  | raiseWrapped (c : Cause) (x : Reg) (v : Word) :
      i.dest = some x → destCheck s x v = none → i.isTransfer = false → Effect i s (raiseFault c (s.putReg x v))
  | put (x : Reg) (v : Word) :
      i.dest = some x → destCheck s x v = none → i.isTransfer = false → Effect i s (s.putReg x v)
  | same : Effect i s s
  | halt : Effect i s s.halt
  | jump (v : Word) : Effect i s (s.setPc v)
  | compare (v : Word) : IsCompare i → Effect i s (s.setCmpr v)
  | hiLo (h l : Word) : WritesHiLo i → Effect i s ((s.setHi h).setLo l)
  | divideOpen : WritesHiLo i → DividesOpen i s → Effect i s (divideOverflow s)
  | store (a : Nat) (bs : List Byte) : writeCheck s a bs.length = none → Effect i s (s.storeBytes a bs)
  | push (w : Word) : pushCheck s = none → Effect i s (s.pushWord w)
  | call (w v : Word) : pushCheck s = none → Effect i s ((s.pushWord w).setPc v)
  | pop (x : Reg) (v : Word) :
      i.dest = some x → x ≠ .sp → destCheck s x v = none → popCheck s = none → i.isTransfer = false →
      Effect i s (s.putReg x v).dropWord
  | ret (v : Word) : popCheck s = none → Effect i s (s.dropWord.setPc v)
  | int (n : Fin 64) : Effect i s (interrupt n s)
  | input (p : Fin 8) (y : Reg) (a n : Nat) (bs : List Byte) (v : Word) :
      i.dest = some y → i.isTransfer = true → y ≠ .he → y ≠ .sp → destCheck s y v = none →
      writeCheck s a n = none → bs.length ≤ n → Effect i s (((s.takeInput p n).storeBytes a bs).putReg y v)
  | output (p : Fin 8) (y : Reg) (bs : List Byte) (v : Word) :
      i.dest = some y → i.isTransfer = true → y ≠ .he → y ≠ .sp → destCheck s y v = none →
      Effect i s ((s.giveOutput p bs).putReg y v)

theorem complete_effect {i : Instr} {s t u : State} {checks : List (Option Cause)} (h : complete s checks u = .next t)
    (hu : firstCause checks = none → Effect i s u) : Effect i s t := by
  rcases complete_cases h with ⟨h1, rfl⟩ | ⟨c, _, rfl⟩
  · exact hu h1
  · exact .raise c

theorem writeResult_effect {i : Instr} {s t : State} {checks : List (Option Cause)} {x : Reg} {v : Word}
    (h : writeResult s checks x v = .next t) (hd : i.dest = some x) (hi : i.isTransfer = false) : Effect i s t :=
  complete_effect h fun hc => .put x v hd ((firstCause_eq_none.mp hc) _ (by simp)) hi

theorem arithmeticResult_effect {i : Instr} {s t : State} {f : Bool} {x : Reg} {r : Int}
    (h : arithmeticResult s f x r = .next t) (hd : i.dest = some x) (hi : i.isTransfer = false) : Effect i s t := by
  unfold arithmeticResult at h
  split at h
  · exact writeResult_effect h hd hi
  · obtain rfl : _ = t := by simpa using h
    unfold overflowBase
    split
    · exact .raise _
    · split
      · next hn => exact .raiseWrapped _ _ _ hd hn hi
      · exact .raise _

theorem jumpRelative_effect {i : Instr} {s t : State} {n : BitVec 24} (h : jumpRelative s n = .next t) :
    Effect i s t := complete_effect h fun _ => .jump _

theorem branchIf_effect {i : Instr} {c : Condition} {s t : State} {n : BitVec 24} (h : branchIf c s n = .next t) :
    Effect i s t := by
  unfold branchIf at h
  split at h
  · exact jumpRelative_effect h
  · exact complete_effect h fun _ => .same

theorem divideSigned_effect {i : Instr} {s t : State} {a b : Int} (h : divideSigned s a b = .next t)
    (hi : WritesHiLo i) (hopen : a = -2 ^ 31 → b = -1 → DividesOpen i s) : Effect i s t := by
  unfold divideSigned at h
  split at h
  · next hc =>
    obtain rfl : _ = t := by simpa using h
    exact .divideOpen hi (hopen hc.1 hc.2)
  · exact complete_effect h fun _ => .hiLo _ _ hi

/-- Every next state of an instruction is an effect of it. -/
theorem exec_effect {i : Instr} {s t : State} (h : exec i s = .next t) : Effect i s t := by
  cases i
  case nop =>
    rw [exec_nop, execNop] at h
    exact complete_effect h fun _ => .same
  case eop =>
    rw [exec_eop, execEop] at h
    exact complete_effect h fun _ => .halt
  case sb =>
    rw [exec_sb, execSb] at h
    exact complete_effect h fun hc => .store _ _
      (firstCause_eq_none.mp hc _ (by simp))
  case sw =>
    rw [exec_sw, execSw] at h
    exact complete_effect h fun hc => .store _ _
      (firstCause_eq_none.mp hc _ (by simp))
  case push =>
    rw [exec_push, execPush] at h
    exact complete_effect h fun hc => .push _
      (firstCause_eq_none.mp hc _ (by simp))
  case call =>
    rw [exec_call, execCall] at h
    exact complete_effect h fun hc => .call _ _
      (firstCause_eq_none.mp hc _ (by simp))
  case ret =>
    rw [exec_ret, execRet] at h
    exact complete_effect h fun hc => .ret _
      (firstCause_eq_none.mp hc _ (by simp))
  case go =>
    rw [exec_go, execGo] at h
    exact complete_effect h fun hc => .jump _
  case int =>
    rw [exec_int, execInt] at h
    exact complete_effect h fun hc => .int _
  case pop x =>
    rw [exec_pop] at h
    unfold execPop at h; split at h
    · cases h
    · next hx =>
      exact complete_effect h fun hc => .pop _ _ rfl hx (firstCause_eq_none.mp hc _ (by simp))
        (firstCause_eq_none.mp hc _ (by simp)) rfl
  case inp x y z =>
    rw [exec_inp] at h
    unfold execInp at h; split at h
    · cases h
    · next hx =>
      simp [countRegisterRefused] at hx
      exact complete_effect h fun hc => .input _ _ _ _ _ _ rfl rfl hx.1 hx.2
        (firstCause_eq_none.mp hc _ (by simp)) (firstCause_eq_none.mp hc _ (by simp)) (inputAnswer_length _ _ _)
  case out x y z =>
    rw [exec_out] at h
    unfold execOut at h; split at h
    · cases h
    · next hx =>
      simp [countRegisterRefused] at hx
      exact complete_effect h fun hc => .output _ _ _ _ rfl rfl hx.1 hx.2 (firstCause_eq_none.mp hc _ (by simp))
  case div x y =>
    rw [exec_div, execDiv] at h
    exact divideSigned_effect h (by simp [WritesHiLo]) fun a b => .inl ⟨x, y, rfl, a, b⟩
  case divi x y =>
    rw [exec_divi, execDivi] at h
    exact divideSigned_effect h (by simp [WritesHiLo]) fun a b => .inr ⟨x, y, rfl, a, b⟩
  case cmp =>
    rw [exec_cmp, execCmp] at h
    exact complete_effect h fun _ => .compare _ (by simp [IsCompare])
  case cmpu =>
    rw [exec_cmpu, execCmpu] at h
    exact complete_effect h fun _ => .compare _ (by simp [IsCompare])
  case cmpi =>
    rw [exec_cmpi, execCmpi] at h
    exact complete_effect h fun _ => .compare _ (by simp [IsCompare])
  case mul =>
    rw [exec_mul, execMul] at h
    exact complete_effect h fun _ => .hiLo _ _ (by simp [WritesHiLo])
  case mulu =>
    rw [exec_mulu, execMulu] at h
    exact complete_effect h fun _ => .hiLo _ _ (by simp [WritesHiLo])
  case muli =>
    rw [exec_muli, execMuli] at h
    exact complete_effect h fun _ => .hiLo _ _ (by simp [WritesHiLo])
  case divu =>
    rw [exec_divu, execDivu] at h
    exact complete_effect h fun _ => .hiLo _ _ (by simp [WritesHiLo])
  case divi2 =>
    rw [exec_divi2, execDivi2] at h
    exact complete_effect h fun _ => .hiLo _ _ (by simp [WritesHiLo])
  case be =>
    rw [exec_be, execBe] at h
    exact branchIf_effect h
  case bne =>
    rw [exec_bne, execBne] at h
    exact branchIf_effect h
  case bl =>
    rw [exec_bl, execBl] at h
    exact branchIf_effect h
  case ble =>
    rw [exec_ble, execBle] at h
    exact branchIf_effect h
  case bg =>
    rw [exec_bg, execBg] at h
    exact branchIf_effect h
  case bge =>
    rw [exec_bge, execBge] at h
    exact branchIf_effect h
  case jmp =>
    rw [exec_jmp, execJmp] at h
    exact jumpRelative_effect h
  case add =>
    rw [exec_add, execAdd] at h
    exact arithmeticResult_effect h rfl rfl
  case addu =>
    rw [exec_addu, execAddu] at h
    exact arithmeticResult_effect h rfl rfl
  case addi =>
    rw [exec_addi, execAddi] at h
    exact arithmeticResult_effect h rfl rfl
  case sub =>
    rw [exec_sub, execSub] at h
    exact arithmeticResult_effect h rfl rfl
  case subu =>
    rw [exec_subu, execSubu] at h
    exact arithmeticResult_effect h rfl rfl
  case subi =>
    rw [exec_subi, execSubi] at h
    exact arithmeticResult_effect h rfl rfl
  case subi2 =>
    rw [exec_subi2, execSubi2] at h
    exact arithmeticResult_effect h rfl rfl
  case inc =>
    rw [exec_inc, execInc] at h
    exact arithmeticResult_effect h rfl rfl
  case dec =>
    rw [exec_dec, execDec] at h
    exact arithmeticResult_effect h rfl rfl
  case set =>
    rw [exec_set, execSet] at h
    exact writeResult_effect h rfl rfl
  case cp =>
    rw [exec_cp, execCp] at h
    exact writeResult_effect h rfl rfl
  case lb =>
    rw [exec_lb, execLb] at h
    exact writeResult_effect h rfl rfl
  case lw =>
    rw [exec_lw, execLw] at h
    exact writeResult_effect h rfl rfl
  case abs =>
    rw [exec_abs, execAbs] at h
    exact writeResult_effect h rfl rfl
  case neg =>
    rw [exec_neg, execNeg] at h
    exact writeResult_effect h rfl rfl
  case mod =>
    rw [exec_mod, execMod] at h
    exact writeResult_effect h rfl rfl
  case modi =>
    rw [exec_modi, execModi] at h
    exact writeResult_effect h rfl rfl
  case modi2 =>
    rw [exec_modi2, execModi2] at h
    exact writeResult_effect h rfl rfl
  case and =>
    rw [exec_and, execAnd] at h
    exact writeResult_effect h rfl rfl
  case andi =>
    rw [exec_andi, execAndi] at h
    exact writeResult_effect h rfl rfl
  case or =>
    rw [exec_or, execOr] at h
    exact writeResult_effect h rfl rfl
  case ori =>
    rw [exec_ori, execOri] at h
    exact writeResult_effect h rfl rfl
  case xor =>
    rw [exec_xor, execXor] at h
    exact writeResult_effect h rfl rfl
  case xori =>
    rw [exec_xori, execXori] at h
    exact writeResult_effect h rfl rfl
  case not =>
    rw [exec_not, execNot] at h
    exact writeResult_effect h rfl rfl
  case noti =>
    rw [exec_noti, execNoti] at h
    exact writeResult_effect h rfl rfl
  case nand =>
    rw [exec_nand, execNand] at h
    exact writeResult_effect h rfl rfl
  case nandi =>
    rw [exec_nandi, execNandi] at h
    exact writeResult_effect h rfl rfl
  case nor =>
    rw [exec_nor, execNor] at h
    exact writeResult_effect h rfl rfl
  case nori =>
    rw [exec_nori, execNori] at h
    exact writeResult_effect h rfl rfl
  case shl =>
    rw [exec_shl, execShl] at h
    exact writeResult_effect h rfl rfl
  case shli =>
    rw [exec_shli, execShli] at h
    exact writeResult_effect h rfl rfl
  case shr =>
    rw [exec_shr, execShr] at h
    exact writeResult_effect h rfl rfl
  case shri =>
    rw [exec_shri, execShri] at h
    exact writeResult_effect h rfl rfl
  case shra =>
    rw [exec_shra, execShra] at h
    exact writeResult_effect h rfl rfl
  case shrai =>
    rw [exec_shrai, execShrai] at h
    exact writeResult_effect h rfl rfl
  case rotl =>
    rw [exec_rotl, execRotl] at h
    exact writeResult_effect h rfl rfl
  case rotli =>
    rw [exec_rotli, execRotli] at h
    exact writeResult_effect h rfl rfl
  case rotr =>
    rw [exec_rotr, execRotr] at h
    exact writeResult_effect h rfl rfl
  case rotri =>
    rw [exec_rotri, execRotri] at h
    exact writeResult_effect h rfl rfl

/-- Every next state of a step is the same state, the halted one, or an effect of an instruction after its fetch. -/
theorem step_effect {s t : State} (h : step s = .next t) : t = s ∨ t = s.halt ∨ ∃ i, Effect i (afterFetch s) t := by
  unfold step at h
  split at h
  · exact .inl (by simpa using h.symm)
  · split at h
    · exact .inr (.inl (by simpa using h.symm))
    · cases h
    · split at h
      · exact .inr (.inr ⟨_, exec_effect h⟩)
      · obtain rfl : _ = t := by simpa using h
        exact .inr (.inr ⟨.nop, .raise _⟩)

end Sys2Proof.Machine
end

