-- ==== Sys2Proof/Laws/Opcodes.lean ====
section
/-! SUPPORT. One equation of the decoder for each opcode: which format and which instruction it is. -/

namespace Sys2Proof.Machine

theorem decodeOpcode_nop (w : Word) : decodeOpcode 0x00 w = .ok .nop := rfl
theorem decodeOpcode_eop (w : Word) : decodeOpcode 0x04 w = .ok .eop := rfl
theorem decodeOpcode_set (w : Word) : decodeOpcode 0x10 w = decodeRNN .set w := rfl
theorem decodeOpcode_cp (w : Word) : decodeOpcode 0x11 w = decodeRR0 .cp w := rfl
theorem decodeOpcode_lb (w : Word) : decodeOpcode 0x12 w = decodeRR0 .lb w := rfl
theorem decodeOpcode_lw (w : Word) : decodeOpcode 0x13 w = decodeRR0 .lw w := rfl
theorem decodeOpcode_sb (w : Word) : decodeOpcode 0x14 w = decodeRR0 .sb w := rfl
theorem decodeOpcode_sw (w : Word) : decodeOpcode 0x15 w = decodeRR0 .sw w := rfl
theorem decodeOpcode_push (w : Word) : decodeOpcode 0x18 w = decodeR00 .push w := rfl
theorem decodeOpcode_pop (w : Word) : decodeOpcode 0x19 w = decodeR00 .pop w := rfl
theorem decodeOpcode_add (w : Word) : decodeOpcode 0x30 w = decodeRRR .add w := rfl
theorem decodeOpcode_addu (w : Word) : decodeOpcode 0x31 w = decodeRRR .addu w := rfl
theorem decodeOpcode_addi (w : Word) : decodeOpcode 0x32 w = decodeRRN .addi w := rfl
theorem decodeOpcode_sub (w : Word) : decodeOpcode 0x33 w = decodeRRR .sub w := rfl
theorem decodeOpcode_subu (w : Word) : decodeOpcode 0x34 w = decodeRRR .subu w := rfl
theorem decodeOpcode_subi (w : Word) : decodeOpcode 0x35 w = decodeRRN .subi w := rfl
theorem decodeOpcode_subi2 (w : Word) : decodeOpcode 0x36 w = decodeRRN .subi2 w := rfl
theorem decodeOpcode_mul (w : Word) : decodeOpcode 0x38 w = decodeRR0 .mul w := rfl
theorem decodeOpcode_mulu (w : Word) : decodeOpcode 0x39 w = decodeRR0 .mulu w := rfl
theorem decodeOpcode_muli (w : Word) : decodeOpcode 0x3A w = decodeRNN .muli w := rfl
theorem decodeOpcode_div (w : Word) : decodeOpcode 0x3B w = decodeRR0 .div w := rfl
theorem decodeOpcode_divu (w : Word) : decodeOpcode 0x3C w = decodeRR0 .divu w := rfl
theorem decodeOpcode_divi (w : Word) : decodeOpcode 0x3D w = decodeRNN .divi w := rfl
theorem decodeOpcode_divi2 (w : Word) : decodeOpcode 0x3E w = decodeRNN .divi2 w := rfl
theorem decodeOpcode_abs (w : Word) : decodeOpcode 0x40 w = decodeRR0 .abs w := rfl
theorem decodeOpcode_neg (w : Word) : decodeOpcode 0x41 w = decodeRR0 .neg w := rfl
theorem decodeOpcode_inc (w : Word) : decodeOpcode 0x42 w = decodeR00 .inc w := rfl
theorem decodeOpcode_dec (w : Word) : decodeOpcode 0x43 w = decodeR00 .dec w := rfl
theorem decodeOpcode_mod (w : Word) : decodeOpcode 0x48 w = decodeRRR .mod w := rfl
theorem decodeOpcode_modi (w : Word) : decodeOpcode 0x49 w = decodeRRN .modi w := rfl
theorem decodeOpcode_modi2 (w : Word) : decodeOpcode 0x4A w = decodeRRN .modi2 w := rfl
theorem decodeOpcode_and (w : Word) : decodeOpcode 0x50 w = decodeRRR .and w := rfl
theorem decodeOpcode_andi (w : Word) : decodeOpcode 0x51 w = decodeRRN .andi w := rfl
theorem decodeOpcode_or (w : Word) : decodeOpcode 0x52 w = decodeRRR .or w := rfl
theorem decodeOpcode_ori (w : Word) : decodeOpcode 0x53 w = decodeRRN .ori w := rfl
theorem decodeOpcode_xor (w : Word) : decodeOpcode 0x54 w = decodeRRR .xor w := rfl
theorem decodeOpcode_xori (w : Word) : decodeOpcode 0x55 w = decodeRRN .xori w := rfl
theorem decodeOpcode_not (w : Word) : decodeOpcode 0x56 w = decodeRR0 .not w := rfl
theorem decodeOpcode_noti (w : Word) : decodeOpcode 0x57 w = decodeRNN .noti w := rfl
theorem decodeOpcode_nand (w : Word) : decodeOpcode 0x58 w = decodeRRR .nand w := rfl
theorem decodeOpcode_nandi (w : Word) : decodeOpcode 0x59 w = decodeRRN .nandi w := rfl
theorem decodeOpcode_nor (w : Word) : decodeOpcode 0x5A w = decodeRRR .nor w := rfl
theorem decodeOpcode_nori (w : Word) : decodeOpcode 0x5B w = decodeRRN .nori w := rfl
theorem decodeOpcode_shl (w : Word) : decodeOpcode 0x60 w = decodeRRR .shl w := rfl
theorem decodeOpcode_shli (w : Word) : decodeOpcode 0x61 w = decodeRRN .shli w := rfl
theorem decodeOpcode_shr (w : Word) : decodeOpcode 0x62 w = decodeRRR .shr w := rfl
theorem decodeOpcode_shri (w : Word) : decodeOpcode 0x63 w = decodeRRN .shri w := rfl
theorem decodeOpcode_shra (w : Word) : decodeOpcode 0x64 w = decodeRRR .shra w := rfl
theorem decodeOpcode_shrai (w : Word) : decodeOpcode 0x65 w = decodeRRN .shrai w := rfl
theorem decodeOpcode_rotl (w : Word) : decodeOpcode 0x68 w = decodeRRR .rotl w := rfl
theorem decodeOpcode_rotli (w : Word) : decodeOpcode 0x69 w = decodeRRN .rotli w := rfl
theorem decodeOpcode_rotr (w : Word) : decodeOpcode 0x6A w = decodeRRR .rotr w := rfl
theorem decodeOpcode_rotri (w : Word) : decodeOpcode 0x6B w = decodeRRN .rotri w := rfl
theorem decodeOpcode_cmp (w : Word) : decodeOpcode 0x70 w = decodeRR0 .cmp w := rfl
theorem decodeOpcode_cmpu (w : Word) : decodeOpcode 0x71 w = decodeRR0 .cmpu w := rfl
theorem decodeOpcode_cmpi (w : Word) : decodeOpcode 0x72 w = decodeRNN .cmpi w := rfl
theorem decodeOpcode_be (w : Word) : decodeOpcode 0x80 w = .ok (.be (imm24Field w)) := rfl
theorem decodeOpcode_bne (w : Word) : decodeOpcode 0x81 w = .ok (.bne (imm24Field w)) := rfl
theorem decodeOpcode_bl (w : Word) : decodeOpcode 0x82 w = .ok (.bl (imm24Field w)) := rfl
theorem decodeOpcode_ble (w : Word) : decodeOpcode 0x83 w = .ok (.ble (imm24Field w)) := rfl
theorem decodeOpcode_bg (w : Word) : decodeOpcode 0x84 w = .ok (.bg (imm24Field w)) := rfl
theorem decodeOpcode_bge (w : Word) : decodeOpcode 0x85 w = .ok (.bge (imm24Field w)) := rfl
theorem decodeOpcode_jmp (w : Word) : decodeOpcode 0x88 w = .ok (.jmp (imm24Field w)) := rfl
theorem decodeOpcode_go (w : Word) : decodeOpcode 0x90 w = decodeR00 .go w := rfl
theorem decodeOpcode_call (w : Word) : decodeOpcode 0x91 w = .ok (.call (imm24Field w)) := rfl
theorem decodeOpcode_ret (w : Word) : decodeOpcode 0x92 w = .ok .ret := rfl
theorem decodeOpcode_int (w : Word) : decodeOpcode 0xA0 w = .ok (.int (imm24Field w)) := rfl
theorem decodeOpcode_inp (w : Word) : decodeOpcode 0xB0 w = decodeRRR .inp w := rfl
theorem decodeOpcode_out (w : Word) : decodeOpcode 0xB8 w = decodeRRR .out w := rfl

end Sys2Proof.Machine
end

