-- ==== Sys2Proof/Laws/PerInstr.lean ====
section
/-! SUPPORT. Statements about every instruction, one lemma a constructor. AssignedOpcode: the first byte of an
instruction's word is none of the 187 invalid opcodes, and it is the byte of 30_encoding.md R131. -/

namespace Sys2Proof.Laws
open Sys2Proof.Machine

/-- The opcode byte the table of 30_encoding.md R131 gives each instruction. -/
def AssignedOpcode.byte : Instr → Byte
  | .nop => 0x00
  | .eop => 0x04
  | .set _ _ => 0x10
  | .cp _ _ => 0x11
  | .lb _ _ => 0x12
  | .lw _ _ => 0x13
  | .sb _ _ => 0x14
  | .sw _ _ => 0x15
  | .push _ => 0x18
  | .pop _ => 0x19
  | .add _ _ _ => 0x30
  | .addu _ _ _ => 0x31
  | .addi _ _ _ => 0x32
  | .sub _ _ _ => 0x33
  | .subu _ _ _ => 0x34
  | .subi _ _ _ => 0x35
  | .subi2 _ _ _ => 0x36
  | .mul _ _ => 0x38
  | .mulu _ _ => 0x39
  | .muli _ _ => 0x3A
  | .div _ _ => 0x3B
  | .divu _ _ => 0x3C
  | .divi _ _ => 0x3D
  | .divi2 _ _ => 0x3E
  | .abs _ _ => 0x40
  | .neg _ _ => 0x41
  | .inc _ => 0x42
  | .dec _ => 0x43
  | .mod _ _ _ => 0x48
  | .modi _ _ _ => 0x49
  | .modi2 _ _ _ => 0x4A
  | .and _ _ _ => 0x50
  | .andi _ _ _ => 0x51
  | .or _ _ _ => 0x52
  | .ori _ _ _ => 0x53
  | .xor _ _ _ => 0x54
  | .xori _ _ _ => 0x55
  | .not _ _ => 0x56
  | .noti _ _ => 0x57
  | .nand _ _ _ => 0x58
  | .nandi _ _ _ => 0x59
  | .nor _ _ _ => 0x5A
  | .nori _ _ _ => 0x5B
  | .shl _ _ _ => 0x60
  | .shli _ _ _ => 0x61
  | .shr _ _ _ => 0x62
  | .shri _ _ _ => 0x63
  | .shra _ _ _ => 0x64
  | .shrai _ _ _ => 0x65
  | .rotl _ _ _ => 0x68
  | .rotli _ _ _ => 0x69
  | .rotr _ _ _ => 0x6A
  | .rotri _ _ _ => 0x6B
  | .cmp _ _ => 0x70
  | .cmpu _ _ => 0x71
  | .cmpi _ _ => 0x72
  | .be _ => 0x80
  | .bne _ => 0x81
  | .bl _ => 0x82
  | .ble _ => 0x83
  | .bg _ => 0x84
  | .bge _ => 0x85
  | .jmp _ => 0x88
  | .go _ => 0x90
  | .call _ => 0x91
  | .ret => 0x92
  | .int _ => 0xA0
  | .inp _ _ _ => 0xB0
  | .out _ _ _ => 0xB8

/-- The instruction's word starts with its assigned opcode, which is none of the 187 invalid ones. -/
def AssignedOpcode.Statement (i : Instr) : Prop :=
  opcodeField (encode i) = AssignedOpcode.byte i ∧ isInvalidOpcode (AssignedOpcode.byte i) = false

theorem AssignedOpcode.nop : AssignedOpcode.Statement .nop :=
  ⟨(congrArg opcodeField (opcodeWord_eq _ _)).trans (opcodeField_wordOfBytes _ _ _ _), rfl⟩
theorem AssignedOpcode.eop : AssignedOpcode.Statement .eop :=
  ⟨(congrArg opcodeField (opcodeWord_eq _ _)).trans (opcodeField_wordOfBytes _ _ _ _), rfl⟩
theorem AssignedOpcode.set (x : Reg) (n : BitVec 16) : AssignedOpcode.Statement (.set x n) :=
  ⟨(congrArg opcodeField (encodeRNN_eq _ _ _)).trans (opcodeField_wordOfBytes _ _ _ _), rfl⟩
theorem AssignedOpcode.cp (x : Reg) (y : Reg) : AssignedOpcode.Statement (.cp x y) :=
  ⟨(congrArg opcodeField (encodeRR0_eq _ _ _)).trans (opcodeField_wordOfBytes _ _ _ _), rfl⟩
theorem AssignedOpcode.lb (x : Reg) (y : Reg) : AssignedOpcode.Statement (.lb x y) :=
  ⟨(congrArg opcodeField (encodeRR0_eq _ _ _)).trans (opcodeField_wordOfBytes _ _ _ _), rfl⟩
theorem AssignedOpcode.lw (x : Reg) (y : Reg) : AssignedOpcode.Statement (.lw x y) :=
  ⟨(congrArg opcodeField (encodeRR0_eq _ _ _)).trans (opcodeField_wordOfBytes _ _ _ _), rfl⟩
theorem AssignedOpcode.sb (x : Reg) (y : Reg) : AssignedOpcode.Statement (.sb x y) :=
  ⟨(congrArg opcodeField (encodeRR0_eq _ _ _)).trans (opcodeField_wordOfBytes _ _ _ _), rfl⟩
theorem AssignedOpcode.sw (x : Reg) (y : Reg) : AssignedOpcode.Statement (.sw x y) :=
  ⟨(congrArg opcodeField (encodeRR0_eq _ _ _)).trans (opcodeField_wordOfBytes _ _ _ _), rfl⟩
theorem AssignedOpcode.push (x : Reg) : AssignedOpcode.Statement (.push x) :=
  ⟨(congrArg opcodeField (encodeR00_eq _ _)).trans (opcodeField_wordOfBytes _ _ _ _), rfl⟩
theorem AssignedOpcode.pop (x : Reg) : AssignedOpcode.Statement (.pop x) :=
  ⟨(congrArg opcodeField (encodeR00_eq _ _)).trans (opcodeField_wordOfBytes _ _ _ _), rfl⟩
theorem AssignedOpcode.add (x : Reg) (y : Reg) (z : Reg) : AssignedOpcode.Statement (.add x y z) :=
  ⟨(congrArg opcodeField (encodeRRR_eq _ _ _ _)).trans (opcodeField_wordOfBytes _ _ _ _), rfl⟩
theorem AssignedOpcode.addu (x : Reg) (y : Reg) (z : Reg) : AssignedOpcode.Statement (.addu x y z) :=
  ⟨(congrArg opcodeField (encodeRRR_eq _ _ _ _)).trans (opcodeField_wordOfBytes _ _ _ _), rfl⟩
theorem AssignedOpcode.addi (x : Reg) (y : Reg) (n : BitVec 8) : AssignedOpcode.Statement (.addi x y n) :=
  ⟨(congrArg opcodeField (encodeRRN_eq _ _ _ _)).trans (opcodeField_wordOfBytes _ _ _ _), rfl⟩
theorem AssignedOpcode.sub (x : Reg) (y : Reg) (z : Reg) : AssignedOpcode.Statement (.sub x y z) :=
  ⟨(congrArg opcodeField (encodeRRR_eq _ _ _ _)).trans (opcodeField_wordOfBytes _ _ _ _), rfl⟩
theorem AssignedOpcode.subu (x : Reg) (y : Reg) (z : Reg) : AssignedOpcode.Statement (.subu x y z) :=
  ⟨(congrArg opcodeField (encodeRRR_eq _ _ _ _)).trans (opcodeField_wordOfBytes _ _ _ _), rfl⟩
theorem AssignedOpcode.subi (x : Reg) (y : Reg) (n : BitVec 8) : AssignedOpcode.Statement (.subi x y n) :=
  ⟨(congrArg opcodeField (encodeRRN_eq _ _ _ _)).trans (opcodeField_wordOfBytes _ _ _ _), rfl⟩
theorem AssignedOpcode.subi2 (x : Reg) (y : Reg) (n : BitVec 8) : AssignedOpcode.Statement (.subi2 x y n) :=
  ⟨(congrArg opcodeField (encodeRRN_eq _ _ _ _)).trans (opcodeField_wordOfBytes _ _ _ _), rfl⟩
theorem AssignedOpcode.mul (x : Reg) (y : Reg) : AssignedOpcode.Statement (.mul x y) :=
  ⟨(congrArg opcodeField (encodeRR0_eq _ _ _)).trans (opcodeField_wordOfBytes _ _ _ _), rfl⟩
theorem AssignedOpcode.mulu (x : Reg) (y : Reg) : AssignedOpcode.Statement (.mulu x y) :=
  ⟨(congrArg opcodeField (encodeRR0_eq _ _ _)).trans (opcodeField_wordOfBytes _ _ _ _), rfl⟩
theorem AssignedOpcode.muli (x : Reg) (n : BitVec 16) : AssignedOpcode.Statement (.muli x n) :=
  ⟨(congrArg opcodeField (encodeRNN_eq _ _ _)).trans (opcodeField_wordOfBytes _ _ _ _), rfl⟩
theorem AssignedOpcode.div (x : Reg) (y : Reg) : AssignedOpcode.Statement (.div x y) :=
  ⟨(congrArg opcodeField (encodeRR0_eq _ _ _)).trans (opcodeField_wordOfBytes _ _ _ _), rfl⟩
theorem AssignedOpcode.divu (x : Reg) (y : Reg) : AssignedOpcode.Statement (.divu x y) :=
  ⟨(congrArg opcodeField (encodeRR0_eq _ _ _)).trans (opcodeField_wordOfBytes _ _ _ _), rfl⟩
theorem AssignedOpcode.divi (x : Reg) (n : BitVec 16) : AssignedOpcode.Statement (.divi x n) :=
  ⟨(congrArg opcodeField (encodeRNN_eq _ _ _)).trans (opcodeField_wordOfBytes _ _ _ _), rfl⟩
theorem AssignedOpcode.divi2 (x : Reg) (n : BitVec 16) : AssignedOpcode.Statement (.divi2 x n) :=
  ⟨(congrArg opcodeField (encodeRNN_eq _ _ _)).trans (opcodeField_wordOfBytes _ _ _ _), rfl⟩
theorem AssignedOpcode.abs (x : Reg) (y : Reg) : AssignedOpcode.Statement (.abs x y) :=
  ⟨(congrArg opcodeField (encodeRR0_eq _ _ _)).trans (opcodeField_wordOfBytes _ _ _ _), rfl⟩
theorem AssignedOpcode.neg (x : Reg) (y : Reg) : AssignedOpcode.Statement (.neg x y) :=
  ⟨(congrArg opcodeField (encodeRR0_eq _ _ _)).trans (opcodeField_wordOfBytes _ _ _ _), rfl⟩
theorem AssignedOpcode.inc (x : Reg) : AssignedOpcode.Statement (.inc x) :=
  ⟨(congrArg opcodeField (encodeR00_eq _ _)).trans (opcodeField_wordOfBytes _ _ _ _), rfl⟩
theorem AssignedOpcode.dec (x : Reg) : AssignedOpcode.Statement (.dec x) :=
  ⟨(congrArg opcodeField (encodeR00_eq _ _)).trans (opcodeField_wordOfBytes _ _ _ _), rfl⟩
theorem AssignedOpcode.mod (x : Reg) (y : Reg) (z : Reg) : AssignedOpcode.Statement (.mod x y z) :=
  ⟨(congrArg opcodeField (encodeRRR_eq _ _ _ _)).trans (opcodeField_wordOfBytes _ _ _ _), rfl⟩
theorem AssignedOpcode.modi (x : Reg) (y : Reg) (n : BitVec 8) : AssignedOpcode.Statement (.modi x y n) :=
  ⟨(congrArg opcodeField (encodeRRN_eq _ _ _ _)).trans (opcodeField_wordOfBytes _ _ _ _), rfl⟩
theorem AssignedOpcode.modi2 (x : Reg) (y : Reg) (n : BitVec 8) : AssignedOpcode.Statement (.modi2 x y n) :=
  ⟨(congrArg opcodeField (encodeRRN_eq _ _ _ _)).trans (opcodeField_wordOfBytes _ _ _ _), rfl⟩
theorem AssignedOpcode.and (x : Reg) (y : Reg) (z : Reg) : AssignedOpcode.Statement (.and x y z) :=
  ⟨(congrArg opcodeField (encodeRRR_eq _ _ _ _)).trans (opcodeField_wordOfBytes _ _ _ _), rfl⟩
theorem AssignedOpcode.andi (x : Reg) (y : Reg) (n : BitVec 8) : AssignedOpcode.Statement (.andi x y n) :=
  ⟨(congrArg opcodeField (encodeRRN_eq _ _ _ _)).trans (opcodeField_wordOfBytes _ _ _ _), rfl⟩
theorem AssignedOpcode.or (x : Reg) (y : Reg) (z : Reg) : AssignedOpcode.Statement (.or x y z) :=
  ⟨(congrArg opcodeField (encodeRRR_eq _ _ _ _)).trans (opcodeField_wordOfBytes _ _ _ _), rfl⟩
theorem AssignedOpcode.ori (x : Reg) (y : Reg) (n : BitVec 8) : AssignedOpcode.Statement (.ori x y n) :=
  ⟨(congrArg opcodeField (encodeRRN_eq _ _ _ _)).trans (opcodeField_wordOfBytes _ _ _ _), rfl⟩
theorem AssignedOpcode.xor (x : Reg) (y : Reg) (z : Reg) : AssignedOpcode.Statement (.xor x y z) :=
  ⟨(congrArg opcodeField (encodeRRR_eq _ _ _ _)).trans (opcodeField_wordOfBytes _ _ _ _), rfl⟩
theorem AssignedOpcode.xori (x : Reg) (y : Reg) (n : BitVec 8) : AssignedOpcode.Statement (.xori x y n) :=
  ⟨(congrArg opcodeField (encodeRRN_eq _ _ _ _)).trans (opcodeField_wordOfBytes _ _ _ _), rfl⟩
theorem AssignedOpcode.not (x : Reg) (y : Reg) : AssignedOpcode.Statement (.not x y) :=
  ⟨(congrArg opcodeField (encodeRR0_eq _ _ _)).trans (opcodeField_wordOfBytes _ _ _ _), rfl⟩
theorem AssignedOpcode.noti (x : Reg) (n : BitVec 16) : AssignedOpcode.Statement (.noti x n) :=
  ⟨(congrArg opcodeField (encodeRNN_eq _ _ _)).trans (opcodeField_wordOfBytes _ _ _ _), rfl⟩
theorem AssignedOpcode.nand (x : Reg) (y : Reg) (z : Reg) : AssignedOpcode.Statement (.nand x y z) :=
  ⟨(congrArg opcodeField (encodeRRR_eq _ _ _ _)).trans (opcodeField_wordOfBytes _ _ _ _), rfl⟩
theorem AssignedOpcode.nandi (x : Reg) (y : Reg) (n : BitVec 8) : AssignedOpcode.Statement (.nandi x y n) :=
  ⟨(congrArg opcodeField (encodeRRN_eq _ _ _ _)).trans (opcodeField_wordOfBytes _ _ _ _), rfl⟩
theorem AssignedOpcode.nor (x : Reg) (y : Reg) (z : Reg) : AssignedOpcode.Statement (.nor x y z) :=
  ⟨(congrArg opcodeField (encodeRRR_eq _ _ _ _)).trans (opcodeField_wordOfBytes _ _ _ _), rfl⟩
theorem AssignedOpcode.nori (x : Reg) (y : Reg) (n : BitVec 8) : AssignedOpcode.Statement (.nori x y n) :=
  ⟨(congrArg opcodeField (encodeRRN_eq _ _ _ _)).trans (opcodeField_wordOfBytes _ _ _ _), rfl⟩
theorem AssignedOpcode.shl (x : Reg) (y : Reg) (z : Reg) : AssignedOpcode.Statement (.shl x y z) :=
  ⟨(congrArg opcodeField (encodeRRR_eq _ _ _ _)).trans (opcodeField_wordOfBytes _ _ _ _), rfl⟩
theorem AssignedOpcode.shli (x : Reg) (y : Reg) (n : BitVec 8) : AssignedOpcode.Statement (.shli x y n) :=
  ⟨(congrArg opcodeField (encodeRRN_eq _ _ _ _)).trans (opcodeField_wordOfBytes _ _ _ _), rfl⟩
theorem AssignedOpcode.shr (x : Reg) (y : Reg) (z : Reg) : AssignedOpcode.Statement (.shr x y z) :=
  ⟨(congrArg opcodeField (encodeRRR_eq _ _ _ _)).trans (opcodeField_wordOfBytes _ _ _ _), rfl⟩
theorem AssignedOpcode.shri (x : Reg) (y : Reg) (n : BitVec 8) : AssignedOpcode.Statement (.shri x y n) :=
  ⟨(congrArg opcodeField (encodeRRN_eq _ _ _ _)).trans (opcodeField_wordOfBytes _ _ _ _), rfl⟩
theorem AssignedOpcode.shra (x : Reg) (y : Reg) (z : Reg) : AssignedOpcode.Statement (.shra x y z) :=
  ⟨(congrArg opcodeField (encodeRRR_eq _ _ _ _)).trans (opcodeField_wordOfBytes _ _ _ _), rfl⟩
theorem AssignedOpcode.shrai (x : Reg) (y : Reg) (n : BitVec 8) : AssignedOpcode.Statement (.shrai x y n) :=
  ⟨(congrArg opcodeField (encodeRRN_eq _ _ _ _)).trans (opcodeField_wordOfBytes _ _ _ _), rfl⟩
theorem AssignedOpcode.rotl (x : Reg) (y : Reg) (z : Reg) : AssignedOpcode.Statement (.rotl x y z) :=
  ⟨(congrArg opcodeField (encodeRRR_eq _ _ _ _)).trans (opcodeField_wordOfBytes _ _ _ _), rfl⟩
theorem AssignedOpcode.rotli (x : Reg) (y : Reg) (n : BitVec 8) : AssignedOpcode.Statement (.rotli x y n) :=
  ⟨(congrArg opcodeField (encodeRRN_eq _ _ _ _)).trans (opcodeField_wordOfBytes _ _ _ _), rfl⟩
theorem AssignedOpcode.rotr (x : Reg) (y : Reg) (z : Reg) : AssignedOpcode.Statement (.rotr x y z) :=
  ⟨(congrArg opcodeField (encodeRRR_eq _ _ _ _)).trans (opcodeField_wordOfBytes _ _ _ _), rfl⟩
theorem AssignedOpcode.rotri (x : Reg) (y : Reg) (n : BitVec 8) : AssignedOpcode.Statement (.rotri x y n) :=
  ⟨(congrArg opcodeField (encodeRRN_eq _ _ _ _)).trans (opcodeField_wordOfBytes _ _ _ _), rfl⟩
theorem AssignedOpcode.cmp (x : Reg) (y : Reg) : AssignedOpcode.Statement (.cmp x y) :=
  ⟨(congrArg opcodeField (encodeRR0_eq _ _ _)).trans (opcodeField_wordOfBytes _ _ _ _), rfl⟩
theorem AssignedOpcode.cmpu (x : Reg) (y : Reg) : AssignedOpcode.Statement (.cmpu x y) :=
  ⟨(congrArg opcodeField (encodeRR0_eq _ _ _)).trans (opcodeField_wordOfBytes _ _ _ _), rfl⟩
theorem AssignedOpcode.cmpi (x : Reg) (n : BitVec 16) : AssignedOpcode.Statement (.cmpi x n) :=
  ⟨(congrArg opcodeField (encodeRNN_eq _ _ _)).trans (opcodeField_wordOfBytes _ _ _ _), rfl⟩
theorem AssignedOpcode.be (n : BitVec 24) : AssignedOpcode.Statement (.be n) :=
  ⟨(congrArg opcodeField (opcodeWord_eq _ _)).trans (opcodeField_wordOfBytes _ _ _ _), rfl⟩
theorem AssignedOpcode.bne (n : BitVec 24) : AssignedOpcode.Statement (.bne n) :=
  ⟨(congrArg opcodeField (opcodeWord_eq _ _)).trans (opcodeField_wordOfBytes _ _ _ _), rfl⟩
theorem AssignedOpcode.bl (n : BitVec 24) : AssignedOpcode.Statement (.bl n) :=
  ⟨(congrArg opcodeField (opcodeWord_eq _ _)).trans (opcodeField_wordOfBytes _ _ _ _), rfl⟩
theorem AssignedOpcode.ble (n : BitVec 24) : AssignedOpcode.Statement (.ble n) :=
  ⟨(congrArg opcodeField (opcodeWord_eq _ _)).trans (opcodeField_wordOfBytes _ _ _ _), rfl⟩
theorem AssignedOpcode.bg (n : BitVec 24) : AssignedOpcode.Statement (.bg n) :=
  ⟨(congrArg opcodeField (opcodeWord_eq _ _)).trans (opcodeField_wordOfBytes _ _ _ _), rfl⟩
theorem AssignedOpcode.bge (n : BitVec 24) : AssignedOpcode.Statement (.bge n) :=
  ⟨(congrArg opcodeField (opcodeWord_eq _ _)).trans (opcodeField_wordOfBytes _ _ _ _), rfl⟩
theorem AssignedOpcode.jmp (n : BitVec 24) : AssignedOpcode.Statement (.jmp n) :=
  ⟨(congrArg opcodeField (opcodeWord_eq _ _)).trans (opcodeField_wordOfBytes _ _ _ _), rfl⟩
theorem AssignedOpcode.go (x : Reg) : AssignedOpcode.Statement (.go x) :=
  ⟨(congrArg opcodeField (encodeR00_eq _ _)).trans (opcodeField_wordOfBytes _ _ _ _), rfl⟩
theorem AssignedOpcode.call (n : BitVec 24) : AssignedOpcode.Statement (.call n) :=
  ⟨(congrArg opcodeField (opcodeWord_eq _ _)).trans (opcodeField_wordOfBytes _ _ _ _), rfl⟩
theorem AssignedOpcode.ret : AssignedOpcode.Statement .ret :=
  ⟨(congrArg opcodeField (opcodeWord_eq _ _)).trans (opcodeField_wordOfBytes _ _ _ _), rfl⟩
theorem AssignedOpcode.int (n : BitVec 24) : AssignedOpcode.Statement (.int n) :=
  ⟨(congrArg opcodeField (opcodeWord_eq _ _)).trans (opcodeField_wordOfBytes _ _ _ _), rfl⟩
theorem AssignedOpcode.inp (x : Reg) (y : Reg) (z : Reg) : AssignedOpcode.Statement (.inp x y z) :=
  ⟨(congrArg opcodeField (encodeRRR_eq _ _ _ _)).trans (opcodeField_wordOfBytes _ _ _ _), rfl⟩
theorem AssignedOpcode.out (x : Reg) (y : Reg) (z : Reg) : AssignedOpcode.Statement (.out x y z) :=
  ⟨(congrArg opcodeField (encodeRRR_eq _ _ _ _)).trans (opcodeField_wordOfBytes _ _ _ _), rfl⟩

end Sys2Proof.Laws
end

