-- ==== Sys2Proof/Tests/Slice0.lean ====
section
/-! SUPPORT. The model's own tests: ill-formed instructions, words decoded and encoded, one step of each instruction,
and for every statement with hypotheses a state and operands that meet them. Expected results are those of
95_test_vectors.md, whose row is named before each test. -/

namespace Sys2Proof.Tests

open Sys2Proof.Machine

/-! ### Helpers -/

/-- General register R1 to R32 by its number. -/
abbrev r (n : Nat) : Reg := .gen (Fin.ofNat 32 (n - 1))

/-- The frame of 95_test_vectors.md Part 2: sixteen words of code, no data. -/
def frame : State := { State.reset with ds := 320, hs := 320, he := 320 }

/-- The frame while an instruction at 256 executes. -/
def ex : State := { frame with pc := 260 }

/-- `s` with the listed registers. -/
def withRegs (s : State) (regs : List (Reg × Word)) : State :=
  regs.foldl (fun s p => s.putReg p.1 p.2) s

/-- `s` with the listed bytes of memory. -/
def withBytes (s : State) (mem : List (Nat × List Byte)) : State :=
  mem.foldl (fun s p => s.storeBytes p.1 p.2) s

/-- An I/O instruction about to run: five bytes at 400, R1 = 400, R2 the count. -/
def at400 (count : Word) : State :=
  withBytes (withRegs ex [(r 1, 400), (r 2, count)]) [(400, [0x01, 0x02, 0x03, 0x04, 0x05])]

/-- One step from the frame with the word `code` at 256 and the listed registers and bytes ends in the state
that differs by exactly the registers, bytes, PC and run state listed behind them. -/
def vector (code : Word) (regs : List (Reg × Word)) (mem : List (Nat × List Byte)) (regs' : List (Reg × Word))
    (mem' : List (Nat × List Byte)) (pc' : Word) (run' : RunState) : Bool :=
  let s := withBytes (withRegs frame regs) ((256, bytesOfWord code) :: mem)
  match step s with
  | .next t => decide (t = { withBytes (withRegs s regs') mem' with pc := pc', ir := code, run := run' })
  | .fault _ | .refused _ => false

/-- A word and the instruction it stands for, both ways. -/
def codes (w : Word) (i : Instr) : Bool := decide (decodeWord w = .ok i) && decide (encode i = w)

/-! ### Ill-formed instructions -/

theorem test_wellFormed_accepts : (Instr.add (r 3) (r 1) (r 2)).wellFormed = true := by decide
theorem test_wellFormed_protected_destination : (Instr.set .zero 5).wellFormed = false := by decide
theorem test_wellFormed_pop_sp : (Instr.pop .sp).wellFormed = false := by decide
theorem test_wellFormed_in_count_he : (Instr.inp (r 1) .he (r 3)).wellFormed = false := by decide
theorem test_wellFormed_out_count_sp : (Instr.out (r 1) .sp (r 3)).wellFormed = false := by decide
theorem test_wellFormed_divi_zero : (Instr.divi (r 1) 0).wellFormed = false := by decide
theorem test_wellFormed_modi2_zero : (Instr.modi2 (r 1) (r 2) 0).wellFormed = false := by decide
theorem test_wellFormed_noti_range : (Instr.noti (r 1) 0x8000).wellFormed = false := by decide

/-! ### Words -/

/-- V-CTL-1, V-CTL-3. -/
theorem test_codes_control :
    (codes 0x00000000 .nop &&
      codes 0x04000000 .eop) = true := by decide

/-- V-LS-1, V-DEC-11, V-LS-24, V-LS-30, V-LS-37, V-LS-44, V-LS-51, V-LS-58. -/
theorem test_codes_load_store :
    (codes 0x10010008 (.set (r 1) 0x0008) &&
      codes 0x11012C00 (.cp (r 1) .cmpr) &&
      codes 0x12010200 (.lb (r 1) (r 2)) &&
      codes 0x13020100 (.lw (r 2) (r 1)) &&
      codes 0x14020100 (.sb (r 2) (r 1)) &&
      codes 0x15020100 (.sw (r 2) (r 1)) &&
      codes 0x18010000 (.push (r 1)) &&
      codes 0x19010000 (.pop (r 1))) = true := by decide

/-- V-AR-1, V-AR-9, V-AR-14, V-AR-20, V-AR-24, V-AR-27, V-AR-31, V-MD-32, V-MD-36, V-AR-34, V-AR-37. -/
theorem test_codes_addition :
    (codes 0x30030102 (.add (r 3) (r 1) (r 2)) &&
      codes 0x31030102 (.addu (r 3) (r 1) (r 2)) &&
      codes 0x3202017F (.addi (r 2) (r 1) 0x7F) &&
      codes 0x33030102 (.sub (r 3) (r 1) (r 2)) &&
      codes 0x34030102 (.subu (r 3) (r 1) (r 2)) &&
      codes 0x3502011E (.subi (r 2) (r 1) 0x1E) &&
      codes 0x3602011E (.subi2 (r 2) (r 1) 0x1E) &&
      codes 0x40010200 (.abs (r 1) (r 2)) &&
      codes 0x41010200 (.neg (r 1) (r 2)) &&
      codes 0x42010000 (.inc (r 1)) &&
      codes 0x43010000 (.dec (r 1))) = true := by decide

/-- V-MD-1, V-MD-8, V-MD-11, V-MD-13, V-MD-22, V-MD-25, V-MD-28, V-MD-39, V-MD-44, V-MD-47. -/
theorem test_codes_multiplication :
    (codes 0x38010200 (.mul (r 1) (r 2)) &&
      codes 0x39010200 (.mulu (r 1) (r 2)) &&
      codes 0x3A01FFFE (.muli (r 1) 0xFFFE) &&
      codes 0x3B010200 (.div (r 1) (r 2)) &&
      codes 0x3C010200 (.divu (r 1) (r 2)) &&
      codes 0x3D010003 (.divi (r 1) 0x0003) &&
      codes 0x3E010064 (.divi2 (r 1) 0x0064) &&
      codes 0x48030102 (.mod (r 3) (r 1) (r 2)) &&
      codes 0x49020103 (.modi (r 2) (r 1) 0x03) &&
      codes 0x4A020164 (.modi2 (r 2) (r 1) 0x64)) = true := by decide

/-- V-BW-1, V-BW-3, V-BW-4, V-BW-6, V-BW-7, V-BW-9, V-BW-10, V-BW-12, V-BW-15, V-BW-16, V-BW-17, V-BW-18. -/
theorem test_codes_bitwise :
    (codes 0x50030102 (.and (r 3) (r 1) (r 2)) &&
      codes 0x510201FF (.andi (r 2) (r 1) 0xFF) &&
      codes 0x52030102 (.or (r 3) (r 1) (r 2)) &&
      codes 0x53020180 (.ori (r 2) (r 1) 0x80) &&
      codes 0x54030102 (.xor (r 3) (r 1) (r 2)) &&
      codes 0x550201FF (.xori (r 2) (r 1) 0xFF) &&
      codes 0x56010200 (.not (r 1) (r 2)) &&
      codes 0x57010005 (.noti (r 1) 0x0005) &&
      codes 0x58030102 (.nand (r 3) (r 1) (r 2)) &&
      codes 0x5902010F (.nandi (r 2) (r 1) 0x0F) &&
      codes 0x5A030102 (.nor (r 3) (r 1) (r 2)) &&
      codes 0x5B020100 (.nori (r 2) (r 1) 0x00)) = true := by decide

/-- V-SH-1, V-SH-6, V-SH-9, V-SH-12, V-SH-14, V-SH-20, V-SH-22, V-SH-27, V-SH-30, V-SH-32. -/
theorem test_codes_shift :
    (codes 0x60030102 (.shl (r 3) (r 1) (r 2)) &&
      codes 0x61020104 (.shli (r 2) (r 1) 0x04) &&
      codes 0x62030102 (.shr (r 3) (r 1) (r 2)) &&
      codes 0x63020104 (.shri (r 2) (r 1) 0x04) &&
      codes 0x64030102 (.shra (r 3) (r 1) (r 2)) &&
      codes 0x65020104 (.shrai (r 2) (r 1) 0x04) &&
      codes 0x68030102 (.rotl (r 3) (r 1) (r 2)) &&
      codes 0x69040106 (.rotli (r 4) (r 1) 0x06) &&
      codes 0x6A030102 (.rotr (r 3) (r 1) (r 2)) &&
      codes 0x6B020108 (.rotri (r 2) (r 1) 0x08)) = true := by decide

/-- V-CM-1, V-CM-6, V-CM-9, V-BR-11, V-BR-16, V-BR-19, V-BR-22, V-BR-25, V-BR-28, V-BR-1. -/
theorem test_codes_compare_branch :
    (codes 0x70010200 (.cmp (r 1) (r 2)) &&
      codes 0x71010200 (.cmpu (r 1) (r 2)) &&
      codes 0x7201FFFD (.cmpi (r 1) 0xFFFD) &&
      codes 0x80000005 (.be 0x000005) &&
      codes 0x81000003 (.bne 0x000003) &&
      codes 0x82000003 (.bl 0x000003) &&
      codes 0x83000003 (.ble 0x000003) &&
      codes 0x84000003 (.bg 0x000003) &&
      codes 0x85000003 (.bge 0x000003) &&
      codes 0x88000002 (.jmp 0x000002)) = true := by decide

/-- V-SR-1, V-SR-8, V-SR-14, V-IT-1, V-IO-10, V-IO-1. -/
theorem test_codes_subroutine_system_io :
    (codes 0x90070000 (.go (r 7)) &&
      codes 0x91000003 (.call 0x000003) &&
      codes 0x92000000 .ret &&
      codes 0xA0000005 (.int 0x000005) &&
      codes 0xB0010203 (.inp (r 1) (r 2) (r 3)) &&
      codes 0xB8010203 (.out (r 1) (r 2) (r 3))) = true := by decide

/-- V-DEC-1, V-DEC-3, V-DEC-6, V-DEC-7: no instruction. -/
theorem test_codes_rejected :
    decodeWord 0xFF000000 = .error .invalidOpcode ∧ decodeWord 0x16010200 = .error .invalidOpcode ∧
      decodeWord 0x3001022D = .error .invalidRegister ∧ decodeWord 0x112D0100 = .error .invalidRegister := by decide

/-- The bytes that follow an instruction are handed on (30_encoding.md R120). -/
theorem test_decode_rest : decode [0x10, 0x02, 0xFF, 0xFD, 0x04] = .ok (.set (r 2) 0xFFFD, [0x04]) := by decide

/-! ### One step of each instruction -/

/-- V-CTL-2. -/
theorem test_nop_ignores_unused_bits :
    vector 0x00FFFFFF [] [] [] [] 260 .running = true := by decide

/-- V-CTL-4. -/
theorem test_eop_halts :
    vector 0x04123456 [] [] [] [] 260 .halted = true := by decide

/-- V-CTL-5. -/
theorem test_fetch_at_ds_halts :
    step { frame with pc := 320 } = .next { frame with pc := 320, run := .halted } := rfl

/-- V-DEC-4. -/
theorem test_decode_opcode_before_register :
    vector 0xFF2D2D2D [] [] [(.err, 0x20)] [] 260 .halted = true := by decide

/-- V-DEC-5. -/
theorem test_decode_handler_entered :
    vector 0xFF000000 [] [(32, [0x00, 0x00, 0x01, 0x2C])] [(.sp, 0x7FC), (.err, 0x20)]
      [(2044, [0x00, 0x00, 0x01, 0x04])] 300 .running = true := by decide

/-- V-DEC-12. -/
theorem test_decode_err_is_sticky :
    vector 0x3001022D [(.err, 0x1)] [(36, [0x00, 0x00, 0x01, 0x30])] [(.sp, 0x7FC), (.err, 0x41)]
      [(2044, [0x00, 0x00, 0x01, 0x04])] 304 .running = true := by decide

/-- V-LS-4. -/
theorem test_set_extends_the_sign :
    vector 0x10018000 [] [] [(r 1, 0xFFFF8000)] [] 260 .running = true := by decide

/-- V-LS-12. -/
theorem test_set_sp_at_he_overflows :
    vector 0x10250140 [] [] [(.err, 0x800)] [] 260 .halted = true := by decide

/-- V-LS-20. -/
theorem test_cp_reads_pc_as_next_address :
    vector 0x11012100 [] [] [(r 1, 0x104)] [] 260 .running = true := by decide

/-- V-LS-21. -/
theorem test_cp_reads_its_own_word_as_ir :
    vector 0x11012700 [] [] [(r 1, 0x11012700)] [] 260 .running = true := by decide

/-- V-LS-24. -/
theorem test_lb_keeps_the_upper_bytes :
    vector 0x12010200 [(r 1, 0xAABBCCDD), (r 2, 0x64)] [(100, [0x05])] [(r 1, 0xAABBCC05)] [] 260 .running = true
      := by decide

/-- V-LS-27. -/
theorem test_lb_past_memory :
    vector 0x12010200 [(r 2, 0xFFFFFFFF)] [] [(.err, 0x100)] [] 260 .halted = true := by decide

/-- V-LS-31. -/
theorem test_lw_unaligned :
    vector 0x13020100 [(r 1, 0x65)] [(100, [0x00, 0x01, 0x02, 0x03, 0x04])] [(r 2, 0x1020304)] [] 260 .running =
      true := by decide

/-- V-LS-33. -/
theorem test_lw_past_memory :
    vector 0x13020100 [(r 1, 0x7FD), (r 2, 0x7)] [] [(.err, 0x100)] [] 260 .halted = true := by decide

/-- V-LS-38. -/
theorem test_sb_into_the_interrupt_table :
    vector 0x14020100 [(r 1, 0xFF), (r 2, 0xAB)] [] [] [(255, [0xAB])] 260 .running = true := by decide

/-- V-LS-40. -/
theorem test_sb_into_code :
    vector 0x14020100 [(r 1, 0x13F), (r 2, 0xAB)] [] [(.err, 0x200)] [] 260 .halted = true := by decide

/-- V-LS-46. -/
theorem test_sw_straddling_code :
    vector 0x15020100 [(r 1, 0xFD), (r 2, 0x1020304)] [] [(.err, 0x200)] [] 260 .halted = true := by decide

/-- V-LS-49. -/
theorem test_sw_last_word :
    vector 0x15020100 [(r 1, 0x7FC), (r 2, 0x1020304)] [] [] [(2044, [0x01, 0x02, 0x03, 0x04])] 260 .running = true
      := by decide

/-- V-LS-52. -/
theorem test_push_pushes_the_old_sp :
    vector 0x18250000 [] [] [(.sp, 0x7FC)] [(2044, [0x00, 0x00, 0x08, 0x00])] 260 .running = true := by decide

/-- V-LS-56. -/
theorem test_push_does_not_wrap :
    vector 0x18010000 [(r 1, 0x7), (.he, 0x0), (.sp, 0x2)] [] [(.err, 0x800)] [] 260 .halted = true := by decide

/-- V-LS-61. -/
theorem test_pop_discards_into_zero :
    vector 0x19000000 [(.sp, 0x7FC)] [(2044, [0xAA, 0xBB, 0xCC, 0xDD])] [(.sp, 0x800)] [] 260 .running = true := by
      decide

/-- V-LS-63. -/
theorem test_pop_checks_he_against_the_old_sp :
    vector 0x19240000 [(.sp, 0x7FC)] [(2044, [0x00, 0x00, 0x07, 0xFC])] [(.err, 0x200)] [] 260 .halted = true := by
      decide

/-- V-AR-5. -/
theorem test_add_negative_result :
    vector 0x30030102 [(r 1, 0x7FFFFFFF), (r 2, 0x80000000)] [] [(r 3, 0xFFFFFFFF)] [] 260 .running = true := by
      decide

/-- V-AR-7. -/
theorem test_add_overflow_enters_the_handler :
    vector 0x30030102 [(r 1, 0x7FFFFFFF), (r 2, 0x1), (.err, 0x100)] [(8, [0x00, 0x00, 0x01, 0x2C])]
      [(.sp, 0x7FC), (.err, 0x102)] [(2044, [0x00, 0x00, 0x01, 0x04])] 300 .running = true := by decide

/-- V-AR-10. -/
theorem test_addu_no_signed_overflow :
    vector 0x31030102 [(r 1, 0x7FFFFFFF), (r 2, 0x1)] [] [(r 3, 0x80000000)] [] 260 .running = true := by decide

/-- V-AR-11. -/
theorem test_addu_overflow :
    vector 0x31030102 [(r 1, 0xFFFFFFFF), (r 2, 0x1), (r 3, 0x9)] [] [(.err, 0x2)] [] 260 .halted = true := by decide

/-- V-AR-15. -/
theorem test_addi_extends_the_sign :
    vector 0x32020180 [(r 1, 0x0)] [] [(r 2, 0xFFFFFF80)] [] 260 .running = true := by decide

/-- V-AR-17. -/
theorem test_addi_overflow :
    vector 0x320201FF [(r 1, 0x80000000), (r 2, 0x9)] [] [(.err, 0x2)] [] 260 .halted = true := by decide

/-- V-AR-20. -/
theorem test_sub_negative_result :
    vector 0x33030102 [(r 1, 0x5), (r 2, 0x7)] [] [(r 3, 0xFFFFFFFE)] [] 260 .running = true := by decide

/-- V-AR-22. -/
theorem test_sub_overflow :
    vector 0x33030102 [(r 1, 0x0), (r 2, 0x80000000), (r 3, 0x9)] [] [(.err, 0x2)] [] 260 .halted = true := by decide

/-- V-AR-24. -/
theorem test_subu_negative_overflows :
    vector 0x34030102 [(r 1, 0x5), (r 2, 0x7), (r 3, 0x9)] [] [(.err, 0x2)] [] 260 .halted = true := by decide

/-- V-AR-25. -/
theorem test_subu_no_signed_overflow :
    vector 0x34030102 [(r 1, 0x80000000), (r 2, 0x1)] [] [(r 3, 0x7FFFFFFF)] [] 260 .running = true := by decide

/-- V-AR-28. -/
theorem test_subi_extends_the_sign :
    vector 0x35020180 [(r 1, 0x0)] [] [(r 2, 0x80)] [] 260 .running = true := by decide

/-- V-AR-29. -/
theorem test_subi_overflow :
    vector 0x35020101 [(r 1, 0x80000000), (r 2, 0x9)] [] [(.err, 0x2)] [] 260 .halted = true := by decide

/-- V-AR-31. -/
theorem test_subi2_reverses_the_operands :
    vector 0x3602011E [(r 1, 0x32)] [] [(r 2, 0xFFFFFFEC)] [] 260 .running = true := by decide

/-- V-AR-33. -/
theorem test_subi2_lowest_result :
    vector 0x360201FF [(r 1, 0x7FFFFFFF)] [] [(r 2, 0x80000000)] [] 260 .running = true := by decide

/-- V-AR-35. -/
theorem test_inc_of_minus_one :
    vector 0x42010000 [(r 1, 0xFFFFFFFF)] [] [(r 1, 0x0)] [] 260 .running = true := by decide

/-- V-AR-36. -/
theorem test_inc_overflow :
    vector 0x42010000 [(r 1, 0x7FFFFFFF)] [] [(.err, 0x2)] [] 260 .halted = true := by decide

/-- V-AR-38. -/
theorem test_dec_of_zero :
    vector 0x43010000 [(r 1, 0x0)] [] [(r 1, 0xFFFFFFFF)] [] 260 .running = true := by decide

/-- V-AR-39. -/
theorem test_dec_overflow :
    vector 0x43010000 [(r 1, 0x80000000)] [] [(.err, 0x2)] [] 260 .halted = true := by decide

/-- V-MD-4. -/
theorem test_mul_squares :
    vector 0x38010100 [(r 1, 0xAAAAAAAA)] [] [(.hi, 0x1C71C71C), (.lo, 0xE38E38E4)] [] 260 .running = true := by
      decide

/-- V-MD-6. -/
theorem test_mul_negative_product :
    vector 0x38010200 [(r 1, 0x80000000), (r 2, 0x7FFFFFFF)] [] [(.hi, 0xC0000000), (.lo, 0x80000000)] [] 260
      .running = true := by decide

/-- V-MD-9. -/
theorem test_mulu_is_unsigned :
    vector 0x39010200 [(r 1, 0xFFFFFFFD), (r 2, 0x5)] [] [(.hi, 0x4), (.lo, 0xFFFFFFF1)] [] 260 .running = true :=
      by decide

/-- V-MD-11. -/
theorem test_muli_extends_the_sign :
    vector 0x3A01FFFE [(r 1, 0x7)] [] [(.hi, 0xFFFFFFFF), (.lo, 0xFFFFFFF2)] [] 260 .running = true := by decide

/-- V-MD-14. -/
theorem test_div_truncates :
    vector 0x3B010200 [(r 1, 0xFFFFFFF6), (r 2, 0x3)] [] [(.hi, 0xFFFFFFFD), (.lo, 0xFFFFFFFF)] [] 260 .running =
      true := by decide

/-- V-MD-21. -/
theorem test_div_by_zero_enters_the_handler :
    vector 0x3B010200 [(r 1, 0xA), (r 2, 0x0)] [(4, [0x00, 0x00, 0x01, 0x18])] [(.sp, 0x7FC), (.err, 0x1)]
      [(2044, [0x00, 0x00, 0x01, 0x04])] 280 .running = true := by decide

/-- V-MD-23. -/
theorem test_divu_is_unsigned :
    vector 0x3C010200 [(r 1, 0x80000000), (r 2, 0xFFFFFFFF)] [] [(.hi, 0x0), (.lo, 0x80000000)] [] 260 .running =
      true := by decide

/-- V-MD-24. -/
theorem test_divu_by_zero :
    vector 0x3C010200 [(r 1, 0x1), (r 2, 0x0)] [] [(.err, 0x1)] [] 260 .halted = true := by decide

/-- V-MD-26. -/
theorem test_divi_extends_the_sign :
    vector 0x3D01FFFD [(r 1, 0xA)] [] [(.hi, 0xFFFFFFFD), (.lo, 0x1)] [] 260 .running = true := by decide

/-- V-MD-27. -/
theorem test_divi_by_zero :
    vector 0x3D010000 [(r 1, 0xA)] [] [(.err, 0x1)] [] 260 .halted = true := by decide

/-- V-MD-29. -/
theorem test_divi2_divides_the_immediate :
    vector 0x3E01FF9C [(r 1, 0x7)] [] [(.hi, 0xFFFFFFF2), (.lo, 0xFFFFFFFE)] [] 260 .running = true := by decide

/-- V-MD-31. -/
theorem test_divi2_of_zero :
    vector 0x3E010000 [(r 1, 0x7)] [] [(.err, 0x1)] [] 260 .halted = true := by decide

/-- V-MD-34. -/
theorem test_abs_of_the_lowest :
    vector 0x40010200 [(r 2, 0x80000000), (r 1, 0x9)] [] [(r 1, 0x0)] [] 260 .running = true := by decide

/-- V-MD-35. -/
theorem test_abs_of_a_negative :
    vector 0x40010200 [(r 2, 0x80000001)] [] [(r 1, 0x7FFFFFFF)] [] 260 .running = true := by decide

/-- V-MD-36. -/
theorem test_neg_of_five :
    vector 0x41010200 [(r 2, 0x5)] [] [(r 1, 0xFFFFFFFB)] [] 260 .running = true := by decide

/-- V-MD-38. -/
theorem test_neg_of_the_lowest :
    vector 0x41010200 [(r 2, 0x80000000)] [] [(r 1, 0x80000000)] [] 260 .running = true := by decide

/-- V-MD-40. -/
theorem test_mod_sign_of_the_dividend :
    vector 0x48030102 [(r 1, 0xFFFFFFF6), (r 2, 0x3)] [] [(r 3, 0xFFFFFFFF)] [] 260 .running = true := by decide

/-- V-MD-43. -/
theorem test_mod_by_zero :
    vector 0x48030102 [(r 1, 0xA), (r 2, 0x0), (r 3, 0x9)] [] [(.err, 0x1)] [] 260 .halted = true := by decide

/-- V-MD-45. -/
theorem test_modi_is_unsigned :
    vector 0x490201FF [(r 1, 0x3E8)] [] [(r 2, 0xEB)] [] 260 .running = true := by decide

/-- V-MD-46. -/
theorem test_modi_by_zero :
    vector 0x49020100 [(r 1, 0xA)] [] [(.err, 0x1)] [] 260 .halted = true := by decide

/-- V-MD-48. -/
theorem test_modi2_divides_the_immediate :
    vector 0x4A020164 [(r 1, 0xFFFFFFF9)] [] [(r 2, 0x2)] [] 260 .running = true := by decide

/-- V-MD-50. -/
theorem test_modi2_of_zero :
    vector 0x4A020100 [(r 1, 0x7)] [] [(.err, 0x1)] [] 260 .halted = true := by decide

/-- V-BW-1. -/
theorem test_and_pattern :
    vector 0x50030102 [(r 1, 0xFF00FF00), (r 2, 0xFF00FF0)] [] [(r 3, 0xF000F00)] [] 260 .running = true := by decide

/-- V-BW-3. -/
theorem test_andi_extends_with_zeros :
    vector 0x510201FF [(r 1, 0xFFFFFFFF)] [] [(r 2, 0xFF)] [] 260 .running = true := by decide

/-- V-BW-4. -/
theorem test_or_pattern :
    vector 0x52030102 [(r 1, 0xFF00FF00), (r 2, 0xFF00FF0)] [] [(r 3, 0xFFF0FFF0)] [] 260 .running = true := by decide

/-- V-BW-6. -/
theorem test_ori_extends_with_zeros :
    vector 0x53020180 [(r 1, 0x0)] [] [(r 2, 0x80)] [] 260 .running = true := by decide

/-- V-BW-7. -/
theorem test_xor_pattern :
    vector 0x54030102 [(r 1, 0xFF00FF00), (r 2, 0xFF00FF0)] [] [(r 3, 0xF0F0F0F0)] [] 260 .running = true := by decide

/-- V-BW-9. -/
theorem test_xori_extends_with_zeros :
    vector 0x550201FF [(r 1, 0xFFFFFFFF)] [] [(r 2, 0xFFFFFF00)] [] 260 .running = true := by decide

/-- V-BW-11. -/
theorem test_not_pattern :
    vector 0x56010200 [(r 2, 0xF0F0F0F)] [] [(r 1, 0xF0F0F0F0)] [] 260 .running = true := by decide

/-- V-BW-13. -/
theorem test_noti_extends_with_zeros :
    vector 0x5701FFFF [] [] [(r 1, 0xFFFF0000)] [] 260 .running = true := by decide

/-- V-BW-15. -/
theorem test_nand_pattern :
    vector 0x58030102 [(r 1, 0xFF00FF00), (r 2, 0xFF00FF0)] [] [(r 3, 0xF0FFF0FF)] [] 260 .running = true := by decide

/-- V-BW-16. -/
theorem test_nandi_pattern :
    vector 0x5902010F [(r 1, 0xFFFFFFFF)] [] [(r 2, 0xFFFFFFF0)] [] 260 .running = true := by decide

/-- V-BW-17. -/
theorem test_nor_pattern :
    vector 0x5A030102 [(r 1, 0xFF00FF00), (r 2, 0xFF00FF0)] [] [(r 3, 0xF000F)] [] 260 .running = true := by decide

/-- V-BW-19. -/
theorem test_nori_pattern :
    vector 0x5B0201FF [(r 1, 0xFFFFFF00)] [] [(r 2, 0x0)] [] 260 .running = true := by decide

/-- V-SH-1. -/
theorem test_shl_into_the_sign :
    vector 0x60030102 [(r 1, 0x1), (r 2, 0x1F)] [] [(r 3, 0x80000000)] [] 260 .running = true := by decide

/-- V-SH-3. -/
theorem test_shl_by_the_whole_register :
    vector 0x60030102 [(r 1, 0xFFFFFFFF), (r 2, 0xFFFFFFFF), (r 3, 0x9)] [] [(r 3, 0x0)] [] 260 .running = true :=
      by decide

/-- V-SH-6. -/
theorem test_shli_drops_bits :
    vector 0x61020104 [(r 1, 0xF0000001)] [] [(r 2, 0x10)] [] 260 .running = true := by decide

/-- V-SH-10. -/
theorem test_shr_fills_with_zeros :
    vector 0x62030102 [(r 1, 0x80000000), (r 2, 0x1F)] [] [(r 3, 0x1)] [] 260 .running = true := by decide

/-- V-SH-13. -/
theorem test_shri_by_thirty_two :
    vector 0x63020120 [(r 1, 0xFFFFFFFF), (r 2, 0x9)] [] [(r 2, 0x0)] [] 260 .running = true := by decide

/-- V-SH-15. -/
theorem test_shra_rounds_down :
    vector 0x64030102 [(r 1, 0xFFFFFFFB), (r 2, 0x1)] [] [(r 3, 0xFFFFFFFD)] [] 260 .running = true := by decide

/-- V-SH-17. -/
theorem test_shra_by_thirty_two :
    vector 0x64030102 [(r 1, 0x80000000), (r 2, 0x20)] [] [(r 3, 0xFFFFFFFF)] [] 260 .running = true := by decide

/-- V-SH-21. -/
theorem test_shrai_by_255 :
    vector 0x650201FF [(r 1, 0x80000000)] [] [(r 2, 0xFFFFFFFF)] [] 260 .running = true := by decide

/-- V-SH-25. -/
theorem test_rotl_modulo_thirty_two :
    vector 0x68030102 [(r 1, 0x12345678), (r 2, 0x21)] [] [(r 3, 0x2468ACF0)] [] 260 .running = true := by decide

/-- V-SH-29. -/
theorem test_rotli_amount_is_unsigned :
    vector 0x690401FA [(r 1, 0x12345678)] [] [(r 4, 0xE048D159)] [] 260 .running = true := by decide

/-- V-SH-31. -/
theorem test_rotr_modulo_thirty_two :
    vector 0x6A030102 [(r 1, 0x12345678), (r 2, 0x24)] [] [(r 3, 0x81234567)] [] 260 .running = true := by decide

/-- V-SH-32. -/
theorem test_rotri_by_eight :
    vector 0x6B020108 [(r 1, 0x12345678)] [] [(r 2, 0x78123456)] [] 260 .running = true := by decide

/-- V-CM-5. -/
theorem test_cmp_is_signed :
    vector 0x70010200 [(r 1, 0x80000000), (r 2, 0x7FFFFFFF)] [] [(.cmpr, 0xFFFFFFFF)] [] 260 .running = true := by
      decide

/-- V-CM-3. -/
theorem test_cmp_equal :
    vector 0x70010200 [(r 1, 0x7), (r 2, 0x7), (.cmpr, 0x1)] [] [(.cmpr, 0x0)] [] 260 .running = true := by decide

/-- V-CM-6. -/
theorem test_cmpu_is_unsigned :
    vector 0x71010200 [(r 1, 0xFFFFFFFF), (r 2, 0x1)] [] [(.cmpr, 0x1)] [] 260 .running = true := by decide

/-- V-CM-11. -/
theorem test_cmpi_extends_the_sign :
    vector 0x72018000 [(r 1, 0x0)] [] [(.cmpr, 0x1)] [] 260 .running = true := by decide

/-- V-BR-14. -/
theorem test_be_untaken_checks_nothing :
    vector 0x80FFFFFF [(.cmpr, 0x1)] [] [] [] 260 .running = true := by decide

/-- V-BR-15. -/
theorem test_be_taken_out_of_code :
    vector 0x80FFFFFF [(.cmpr, 0x0)] [] [(.err, 0x200)] [] 260 .halted = true := by decide

/-- V-BR-17. -/
theorem test_bne_taken :
    vector 0x81000003 [(.cmpr, 0xFFFFFFFF)] [] [] [] 268 .running = true := by decide

/-- V-BR-18. -/
theorem test_bne_untaken :
    vector 0x81000003 [(.cmpr, 0x0)] [] [] [] 260 .running = true := by decide

/-- V-BR-21. -/
theorem test_bl_any_negative :
    vector 0x82000003 [(.cmpr, 0x80000000)] [] [] [] 268 .running = true := by decide

/-- V-BR-20. -/
theorem test_bl_untaken :
    vector 0x82000003 [(.cmpr, 0x0)] [] [] [] 260 .running = true := by decide

/-- V-BR-23. -/
theorem test_ble_on_equal :
    vector 0x83000003 [(.cmpr, 0x0)] [] [] [] 268 .running = true := by decide

/-- V-BR-24. -/
theorem test_ble_untaken :
    vector 0x83000003 [(.cmpr, 0x1)] [] [] [] 260 .running = true := by decide

/-- V-BR-26. -/
theorem test_bg_any_positive :
    vector 0x84000003 [(.cmpr, 0x5)] [] [] [] 268 .running = true := by decide

/-- V-BR-27. -/
theorem test_bg_untaken :
    vector 0x84000003 [(.cmpr, 0x0)] [] [] [] 260 .running = true := by decide

/-- V-BR-28. -/
theorem test_bge_on_equal :
    vector 0x85000003 [(.cmpr, 0x0)] [] [] [] 268 .running = true := by decide

/-- V-BR-30. -/
theorem test_bge_untaken :
    vector 0x85000003 [(.cmpr, 0xFFFFFFFF)] [] [] [] 260 .running = true := by decide

/-- V-BR-4. -/
theorem test_jmp_last_instruction :
    vector 0x8800000F [] [] [] [] 316 .running = true := by decide

/-- V-BR-6. -/
theorem test_jmp_below_code :
    vector 0x88FFFFFF [] [] [(.err, 0x200)] [] 260 .halted = true := by decide

/-- V-SR-6. -/
theorem test_go_unaligned :
    vector 0x90070000 [(r 7, 0x12E)] [] [] [] 302 .running = true := by decide

/-- V-SR-3. -/
theorem test_go_to_ds :
    vector 0x90070000 [(r 7, 0x140)] [] [(.err, 0x200)] [] 260 .halted = true := by decide

/-- V-SR-8. -/
theorem test_call_pushes_the_return_address :
    vector 0x91000003 [] [] [(.sp, 0x7FC)] [(2044, [0x00, 0x00, 0x01, 0x04])] 268 .running = true := by decide

/-- V-SR-12. -/
theorem test_call_overflow_before_target :
    vector 0x91000010 [(.sp, 0x144)] [] [(.err, 0x800)] [] 260 .halted = true := by decide

/-- V-SR-14. -/
theorem test_ret_pops_the_target :
    vector 0x92000000 [(.sp, 0x7FC)] [(2044, [0x00, 0x00, 0x01, 0x0C])] [(.sp, 0x800)] [] 268 .running = true := by
      decide

/-- V-SR-16. -/
theorem test_ret_target_outside_code :
    vector 0x92000000 [(.sp, 0x7FC)] [] [(.err, 0x200)] [] 260 .halted = true := by decide

/-- V-IT-6. -/
theorem test_int_above_63_is_0 :
    vector 0xA0000040 [] [(0, [0x00, 0x00, 0x01, 0x2C])] [(.sp, 0x7FC)] [(2044, [0x00, 0x00, 0x01, 0x04])] 300
      .running = true := by decide

/-- V-IT-10. -/
theorem test_int_push_impossible :
    vector 0xA0000005 [(.sp, 0x144)] [(20, [0x00, 0x00, 0x01, 0x2C])] [] [] 260 .halted = true := by decide

/-- V-IO-6. -/
theorem test_out_past_memory :
    vector 0xB8010203 [(r 1, 0x7FE), (r 2, 0x3), (r 3, 0x0)] [] [(.err, 0x100)] [] 260 .halted = true := by decide

/-- V-IO-2: a device that accepts three of five bytes. -/
theorem test_out_short_count :
    let port : OutPort := { script := [3], served := 0, trace := [] }
    let s := { at400 5 with outPorts := ex.outPorts.set 0 port }
    exec (.out (r 1) (r 2) .zero) s =
      .next
        { s.putReg (r 2) 3 with
          outPorts := ex.outPorts.set 0 { script := [], served := 1, trace := [0x01, 0x02, 0x03] } } := by
  rfl

/-- V-IO-11: a device with four bytes, two asked for. -/
theorem test_inp_takes_what_is_asked_for :
    let port : InPort := { script := [[0x11, 0x22, 0x33, 0x44]], served := 0 }
    let s := { at400 2 with inPorts := ex.inPorts.set 0 port }
    exec (.inp (r 1) (r 2) .zero) s =
      .next
        { (s.storeBytes 400 [0x11, 0x22]).putReg (r 2) 2 with
          inPorts := ex.inPorts.set 0 { script := [[0x33, 0x44]], served := 1 } } := by
  rfl

/-- V-IO-18. -/
theorem test_inp_touching_code :
    vector 0xB0010203 [(r 1, 0xFA), (r 2, 0xA)] [] [(.err, 0x200)] [] 260 .halted = true := by decide

/-! ### Start-up and the host's placement of a word -/

/-- 70_reset_and_hazards.md R362 to R365 with the empty program. -/
theorem test_startUp_empty : startUp (StartInputs.ofProgram [] []) = .ok State.reset := by rfl

/-- V-LS-2, placed by the host: the very next step from reset runs it. -/
theorem test_withFetchWord :
    step (State.reset.withFetchWord 32 0x1002FFFD) =
      .next { State.reset.withFetchWord 32 0x1002FFFD with
        gpr := State.reset.gpr.set 1 0xFFFFFFFD, pc := 260, ir := 0x1002FFFD } := by rfl

/-! ### Hypotheses that can be met

For every statement with hypotheses, states and operands that meet them, at the ends of their ranges. `cond` in a name
says which clause. -/

/-- `s` answers a next state. -/
def answers (o : Outcome) : Bool :=
  match o with
  | .next _ => true
  | .fault _ | .refused _ => false

theorem witness_EncodeAfterDecode : decodeWord 0x18010203 = .ok (.push (r 1)) := by decide
theorem witness_OpcodeMap :
    isInvalidOpcode 0x01 = true ∧ isInvalidOpcode 0x16 = true ∧ isInvalidOpcode 0xB9 = true ∧
      isInvalidOpcode 0xFF = true := by decide
theorem witness_RegisterNumbersAndSampleWords : 44 < (45 : Byte).toNat ∧ 44 < (255 : Byte).toNat := by decide
theorem witness_StepRunsDecoded :
    Fetches frame ∧ decode (frame.mem.readBytes frame.pc.toNat 4) = .ok (.nop, []) ∧
      Fetches { frame with pc := 316 } := by decide
theorem witness_FetchOutsideCode :
    frame.run = .running ∧ frame.ds.toNat ≤ ({ frame with pc := 320 } : State).pc.toNat ∧
      ({ frame with pc := 255 } : State).pc.toNat < 256 ∧
      frame.ds.toNat ≤ ({ frame with pc := 317 } : State).pc.toNat + 3 := by decide
theorem witness_DecodeFaults_opcode :
    Fetches (withBytes frame [(256, [0xFF, 0x2D, 0x2D, 0x2D])]) ∧
      isInvalidOpcode ((withBytes frame [(256, [0xFF, 0x2D, 0x2D, 0x2D])]).mem.read 256) = true := by decide
/-- Also for the register bytes above 44 of every encoding. -/
theorem witness_DecodeFaults_register :
    Fetches (withBytes frame [(256, [0x30, 0x01, 0x02, 0x2D])]) ∧
      isInvalidOpcode ((withBytes frame [(256, [0x30, 0x01, 0x02, 0x2D])]).mem.read 256) = false ∧
      ∃ b ∈ registerBytes ((withBytes frame [(256, [0x30, 0x01, 0x02, 0x2D])]).mem.readWord 256), 44 < b.toNat := by
  decide
theorem witness_DecodeFaults_instruction :
    isInvalidOpcode ((0x112C2C2D : Word).extractLsb' 24 8) = false ∧
      ∀ b ∈ registerBytes 0x112C2C2D, b.toNat ≤ 44 := by decide
theorem witness_HaltedForever : ex.halt.run = .halted := by decide
theorem witness_SameStatesInDebugMode :
    frame.params.mode = .normal ∧
      ({ frame with params := { frame.params with mode := .debug } } : State).params.mode = .debug := by decide

/-- A program of two instructions with three bytes of data. -/
def program : StartInputs :=
  StartInputs.ofProgram [0x10, 0x01, 0x00, 0x08, 0x04, 0x00, 0x00, 0x00] [0xAA, 0xBB, 0xCC]

/-- Serves all five statements about an accepted start-up. -/
theorem witness_StartUp : startUp program = .ok program.state := by rfl
theorem witness_StartUpRefuses :
    startUp { program with code := [0, 0, 0, 0, 0] } = .error .codeNotWhole ∧
      startUp { program with memSize := 266 } = .error .imageTooLarge ∧
      startUp { program with memSize := 2 ^ 31 + 1 } = .error .memoryTooLarge ∧
      startUp { program with heReset := 265 } = .error .heapEndOutOfRange ∧
      startUp { program with heReset := 2048 } = .error .heapEndOutOfRange := by decide
theorem witness_StartUpRefuses_accepted :
    ({ program with heReset := 266 } : StartInputs).check = none ∧
      ({ program with heReset := 2047 } : StartInputs).check = none ∧
      ({ program with memSize := 267, heReset := 266 } : StartInputs).check = none ∧
      ({ program with memSize := 2 ^ 31 } : StartInputs).check = none := by decide

/-- The frame with `PUSH R1` at 256, R1 and the highest HE at which it does not overflow. -/
def pushing : State := withBytes (withRegs frame [(r 1, 7), (.he, 2043)]) [(256, [0x18, 0x01, 0x00, 0x00])]

/-- Also for the statements of what every step keeps. Also for StepKeepsConstants. -/
theorem witness_StepKeepsInvariant : pushing.Inv ∧ answers (step pushing) = true := by decide
theorem witness_StepKeepsCode :
    answers (step pushing) = true ∧ 256 ≤ 319 ∧ 319 < pushing.ds.toNat := by decide
theorem witness_RegistersChangeOnlyWhenNamed :
    answers (exec (.cp (r 3) (r 1)) ex) = true ∧
      ∀ x ∈ [r 4, Reg.he, .fp, .stat, .cmpr, .hi, .lo], (Instr.cp (r 3) (r 1)).dest ≠ some x := by decide
theorem witness_ErrChangesByOneFaultBit :
    answers (exec (.div (r 1) (r 2)) (withRegs ex [(r 1, 10)])) = true ∧ (Instr.div (r 1) (r 2)).dest ≠ some .err ∧
      (withRegs ex [(r 1, 10)]).readReg (r 1) = 10 := by decide
theorem witness_DevicesOnlyByTransfers :
    answers (exec (.sw (r 1) (r 2)) ex) = true ∧ (Instr.sw (r 1) (r 2)).isTransfer = false := by decide

/-- An output port that accepts bytes, and an input port that delivers them. -/
def transferring : State :=
  { at400 2 with
    outPorts := ex.outPorts.set 0 { script := [2], served := 0, trace := [] }
    inPorts := ex.inPorts.set 0 { script := [[0x11, 0x22]], served := 0 } }
theorem witness_BytesMoveOnlyBetweenPortsAndMemory :
    (∃ t, exec (.out (r 1) (r 2) .zero) transferring = .next t ∧ t.outPorts[0] ≠ transferring.outPorts[0]) ∧
      ∃ t, exec (.inp (r 1) (r 2) .zero) transferring = .next t ∧ t.inPorts[0] ≠ transferring.inPorts[0] :=
  ⟨⟨_, rfl, by decide⟩, ⟨_, rfl, by decide⟩⟩

/-- The state `ex` with a handler for every cause and for 0 and 63. -/
def handled : State :=
  withBytes ex ([0, 1, 2, 8, 9, 16, 17, 26, 32, 63].map fun n => (4 * n, [0x00, 0x00, 0x01, 0x2C]))

theorem witness_InterruptEntry :
    (handled.mem.readWord (4 * (0 : Fin 64).val) ≠ 0 ∧ CanPush handled) ∧
      (handled.mem.readWord (4 * (63 : Fin 64).val) ≠ 0 ∧ CanPush { handled with sp := 325 }) ∧
      ex.mem.readWord (4 * (63 : Fin 64).val) = 0 ∧ ¬CanPush { handled with sp := 324 } := by decide
theorem witness_FaultEntry :
    (∀ c ∈ [Cause.divisionByZero, .overflow, .invalidOpcode, .invalidRegister, .invalidAddress, .accessViolation,
        .stackOverflow, .noSuchPort], handled.mem.readWord (4 * c.number.val) ≠ 0) ∧
      CanPush handled ∧ ex.mem.readWord (4 * Cause.overflow.number.val) = 0 := by decide
theorem witness_HandlerReturns :
    handled.mem.readWord (4 * (63 : Fin 64).val) ≠ 0 ∧ handled.mem.readWord (4 * Cause.overflow.number.val) ≠ 0 ∧
      CanPush handled ∧ InCode handled handled.pc.toNat ∧ InCode { handled with pc := 319 } 319 := by decide
theorem witness_ZeroReadsZero :
    ex.params.wpWrite = .discard ∧
      ((Instr.add .zero (r 1) (r 2)).dest = some .zero ∧ Instr.add .zero (r 1) (r 2) ≠ .pop .zero ∧
        (Instr.add .zero (r 1) (r 2)).isTransfer = false) ∧
      (({ ex with sp := 2044 } : State).sp.toNat + 4 ≤ ex.params.memSize ∧
        ({ ex with sp := 2044 } : State).sp.toNat + 4 < 2 ^ 32) ∧
      ((withRegs ex [(r 3, 7)]).readReg (r 3)).toNat ≤ 7 := by decide
theorem witness_NopStep :
    Fetches frame ∧ frame.mem.read frame.pc.toNat = 0 ∧ Fetches { frame with pc := 316 } ∧
      ¬Fetches { frame with pc := 320 } ∧ answers (step { frame with pc := 320 }) = true := by decide

/-- The state `ex` in a machine that raises interrupt 9 for a write-protected destination. -/
def strict : State := { ex with params := { ex.params with wpWrite := .int9 } }

/-- What a destination rejects, at the ends of its range: for every statement through `Yields`. -/
theorem witness_Rejects :
    Rejects strict .zero 5 .invalidRegister ∧ Rejects ex .he 2048 .accessViolation ∧
      Rejects ex .sp 2049 .accessViolation ∧ Rejects ex .sp 320 .stackOverflow := by decide
theorem witness_SetAndCopy_rejected :
    Rejects (withRegs ex [(r 1, 2048)]) .he ((withRegs ex [(r 1, 2048)]).readReg (r 1)) .accessViolation := by decide
theorem witness_LoadWord_rejected :
    (strict.readReg (r 2)).toNat + 4 ≤ strict.params.memSize ∧
      Rejects strict .pc (strict.mem.readWord (strict.readReg (r 2)).toNat) .invalidRegister := by decide
theorem witness_PopWord_rejected :
    ({ strict with sp := 2044 } : State).sp.toNat + 4 ≤ strict.params.memSize ∧ Reg.pc ≠ .sp ∧
      Rejects { strict with sp := 2044 } .pc (strict.mem.readWord 2044) .invalidRegister := by decide
theorem witness_SignedAddition_rejected :
    -2 ^ 31 ≤ (strict.readReg (r 1)).toInt + (strict.readReg (r 2)).toInt ∧
      (strict.readReg (r 1)).toInt + (strict.readReg (r 2)).toInt ≤ 2 ^ 31 - 1 ∧
      Rejects strict .ir (strict.readReg (r 1) + strict.readReg (r 2)) .invalidRegister := by decide

/-- What a destination accepts, at the ends of its range: for every statement through `Yields`. -/
theorem witness_Accepts :
    Accepts ex .zero 5 ∧ Accepts ex .he 2047 ∧ Accepts ex .he 0 ∧ Accepts ex .sp 2048 ∧ Accepts ex .sp 321 ∧
      Accepts strict (r 32) 0xFFFFFFFF ∧ Accepts strict .cmpr 1 := by decide
theorem witness_SetAndCopy :
    Accepts ex (r 1) ((0x8000 : BitVec 16).signExtend 32) ∧ Accepts ex .sp ((2048 : BitVec 16).signExtend 32) ∧
      Accepts ex .he (ex.readReg (r 1)) := by decide
theorem witness_LoadByte :
    let s := withRegs ex [(r 2, 2047)]
    (s.readReg (r 2)).toNat < s.params.memSize ∧
      Accepts s (r 1) ((s.readReg (r 1)).extractLsb' 8 24 ++ s.mem.read (s.readReg (r 2)).toNat) ∧
      ex.params.memSize ≤ ((withRegs ex [(r 2, 2048)]).readReg (r 2)).toNat := by decide
theorem witness_LoadWord :
    let s := withRegs ex [(r 2, 2044)]
    (s.readReg (r 2)).toNat + 4 ≤ s.params.memSize ∧ Accepts s (r 1) (s.mem.readWord 2044) ∧
      ex.params.memSize < ((withRegs ex [(r 2, 2045)]).readReg (r 2)).toNat + 4 := by decide
theorem witness_Stores :
    (2047 + 1 ≤ ex.params.memSize ∧ Unprotected ex 2047 1) ∧ (252 + 4 ≤ ex.params.memSize ∧ Unprotected ex 252 4) ∧
      (320 + 4 ≤ ex.params.memSize ∧ Unprotected ex 320 4) ∧ ex.params.memSize < 2048 + 1 ∧
      ex.params.memSize < 2045 + 4 ∧ ¬Unprotected ex 253 4 ∧ ¬Unprotected ex 319 1 := by decide
theorem witness_Push :
    CanPush { ex with sp := 325 } ∧ ({ ex with sp := 324 } : State).sp.toNat ≤ ex.he.toNat + 4 ∧
      (ex.he.toNat + 4 < ({ ex with sp := 2049 } : State).sp.toNat ∧
        ex.params.memSize < ({ ex with sp := 2049 } : State).sp.toNat) ∧
      (({ ex with he := 100 } : State).he.toNat + 4 < 260 ∧ 260 ≤ ex.params.memSize ∧ ¬Unprotected ex (260 - 4) 4) := by
  decide
theorem witness_PopWord :
    let s := { ex with sp := 2044 }
    (r 1) ≠ Reg.sp ∧ s.sp.toNat + 4 ≤ s.params.memSize ∧ s.sp.toNat + 4 < 2 ^ 32 ∧
      Accepts s (r 1) (s.mem.readWord s.sp.toNat) ∧ ex.params.memSize < ({ ex with sp := 2045 } : State).sp.toNat + 4 := by
  decide
theorem witness_PushThenPop :
    let s := withRegs ex [(r 1, 2043)]
    CanPush s ∧ Reg.he ≠ .sp ∧ answers (exec (.push (r 1)) s) = true ∧
      Accepts (s.pushWord (s.readReg (r 1))) .he (s.readReg (r 1)) := by decide
theorem witness_SignedAddition :
    let s := withRegs ex [(r 1, 0x7FFFFFFF), (r 2, 0x80000000)]
    ((0xFFFFFFFF : Word).toInt = (s.readReg (r 1)).toInt + (s.readReg (r 2)).toInt ∧ Accepts s (r 3) 0xFFFFFFFF) ∧
      2 ^ 31 - 1 < (s.readReg (r 1)).toInt + 1 ∧ (s.readReg (r 2)).toInt - 1 < -2 ^ 31 ∧
      s.params.overflowDest = .unchanged := by decide
theorem witness_SubtractionAndUnsigned :
    let s := withRegs ex [(r 1, 0xFFFFFFFF), (r 2, 0x80000000)]
    ((0x80000000 : Word).toInt = (s.readReg (r 2)).toInt - (0 : BitVec 8).toInt ∧ Accepts s (r 3) 0x80000000) ∧
      2 ^ 31 - 1 < (0 : BitVec 8).toInt - (s.readReg (r 2)).toInt ∧
      (((0xFFFFFFFF : Word).toNat : Int) = ((s.readReg (r 1)).toNat : Int) + (s.readReg (r 3)).toNat ∧
        Accepts s (r 3) 0xFFFFFFFF) ∧
      ((s.readReg (r 3)).toNat : Int) - (s.readReg (r 1)).toNat < 0 ∧
      2 ^ 32 - 1 < ((s.readReg (r 1)).toNat : Int) + (s.readReg (r 1)).toNat ∧
      s.params.overflowDest = .unchanged := by decide

/-- The state `ex` in a machine that writes the wrapped result of an overflow. -/
def wrapping : State := { ex with params := { ex.params with overflowDest := .wrapped } }

theorem witness_WrappedOverflow :
    let s := withRegs wrapping [(r 1, 0x7FFFFFFF)]
    s.params.overflowDest = .wrapped ∧ 2 ^ 31 - 1 < (s.readReg (r 1)).toInt + 1 ∧
      Accepts s (r 1) (BitVec.ofInt 32 ((s.readReg (r 1)).toInt + 1)) ∧
      ¬Accepts s .sp (BitVec.ofInt 32 ((s.readReg (r 1)).toInt + 1)) := by decide
theorem witness_Division :
    let s := withRegs ex [(r 1, 0x80000000), (r 2, 0x7FFFFFFF), (r 3, 1)]
    ((s.readReg (r 3)).toInt ≠ 0 ∧ ¬((s.readReg (r 1)).toInt = -2 ^ 31 ∧ (s.readReg (r 3)).toInt = -1)) ∧
      ((-1 : BitVec 16).toInt ≠ 0 ∧ ¬((s.readReg (r 2)).toInt = -2 ^ 31 ∧ (-1 : BitVec 16).toInt = -1)) ∧
      ((s.readReg (r 1)).toInt ≠ 0 ∧ (-32768 : BitVec 16).toInt ≠ 0) ∧ (s.readReg (r 3)).toNat ≠ 0 ∧
      ({ ex with params := { ex.params with imm2N0 := .result0 } } : State).params.imm2N0 = .result0 := by decide
theorem witness_DivisionByZero :
    ex.readReg (r 2) = 0 ∧ (0 : BitVec 16).signExtend 32 = (0 : Word) ∧ (0 : BitVec 8).setWidth 32 = (0 : Word) ∧
      ex.params.imm2N0 = .int1 := by decide
theorem witness_DivisionOverflowOpen :
    let s := withRegs ex [(r 1, 0x80000000), (r 2, 0xFFFFFFFF)]
    (s.readReg (r 1)).toInt = -2 ^ 31 ∧ (s.readReg (r 2)).toInt = -1 ∧ (0xFFFF : BitVec 16).toInt = -1 := by decide
theorem witness_RemainderInstructions :
    let s := withRegs ex [(r 1, 0x80000000), (r 2, 0xFFFFFFFF)]
    (s.readReg (r 2)).toInt ≠ 0 ∧ ((255 : BitVec 8).toNat : Int) ≠ 0 ∧ Accepts s (r 3) 0 ∧ Accepts s (r 3) 0xFFFFFF81 := by
  decide
theorem witness_LeftShifts :
    (0x80000000 : Word).toNat = (1 : Word).toNat * 2 ^ 31 % 2 ^ 32 ∧
      (0 : Word).toNat = (0xFFFFFFFF : Word).toNat * 2 ^ (255 : BitVec 8).toNat % 2 ^ 32 ∧
      Accepts ex (r 3) 0x80000000 ∧ Accepts ex (r 3) 0 := by decide
theorem witness_RightShifts :
    (1 : Word).toNat = (0x80000000 : Word).toNat / 2 ^ 31 ∧
      (0xFFFFFFFF : Word).toInt = (0x80000000 : Word).toInt.fdiv (2 ^ (255 : BitVec 8).toNat) ∧
      Accepts ex (r 3) 1 ∧ Accepts ex (r 3) 0xFFFFFFFF := by decide
theorem witness_Rotations :
    (∀ j < 32, (0x2468ACF0 : Word).getLsbD j = (0x12345678 : Word).getLsbD ((j + 32 - 33 % 32) % 32)) ∧
      (∀ j < 32, (0x81234567 : Word).getLsbD j = (0x12345678 : Word).getLsbD ((j + 36 % 32) % 32)) ∧
      Accepts ex (r 3) 0x2468ACF0 := by decide
theorem witness_CompareInstructions :
    let s := withRegs ex [(r 1, 0x80000000), (r 2, 0x7FFFFFFF)]
    (s.readReg (r 1)).toInt < (s.readReg (r 2)).toInt ∧ (s.readReg (r 2)).toNat < (s.readReg (r 1)).toNat ∧
      (s.readReg (r 3)).toInt = (0 : BitVec 16).toInt ∧ (-32768 : BitVec 16).toInt < (s.readReg (r 3)).toInt := by decide
theorem witness_BranchInstructions :
    let s := { ex with pc := 263, cmpr := 0xFFFFFFFF }
    InCode s (((s.readReg .pc).toNat : Int) - 4 + 4 * (15 : BitVec 24).toInt) ∧
      InCode ex (((ex.readReg .pc).toNat : Int) - 4 + 4 * (0 : BitVec 24).toInt) ∧
      ¬InCode ex (((ex.readReg .pc).toNat : Int) - 4 + 4 * (16 : BitVec 24).toInt) ∧
      ¬InCode ex (((ex.readReg .pc).toNat : Int) - 4 + 4 * (0xFFFFFF : BitVec 24).toInt) ∧
      (s.readReg .cmpr).toInt < 0 ∧ ¬0 ≤ (s.readReg .cmpr).toInt ∧ ¬(ex.readReg .cmpr).toInt < 0 := by decide
theorem witness_AbsoluteJumps :
    let s := withBytes { ex with sp := 2044 } [(2044, [0x00, 0x00, 0x01, 0x3F])]
    InCode ex 256 ∧ InCode ex 319 ∧ ¬InCode ex 255 ∧ ¬InCode ex 320 ∧
      (s.sp.toNat + 4 ≤ s.params.memSize ∧ s.sp.toNat + 4 < 2 ^ 32 ∧ InCode s (s.mem.readWord s.sp.toNat).toNat) ∧
      ex.params.memSize < ({ ex with sp := 2045 } : State).sp.toNat + 4 ∧
      ¬InCode ex (ex.mem.readWord 2044).toNat := by decide
theorem witness_Call :
    CanPush ex ∧ InCode ex (((ex.readReg .pc).toNat : Int) - 4 + 4 * (3 : BitVec 24).toInt) ∧
      ({ ex with sp := 324 } : State).sp.toNat ≤ ex.he.toNat + 4 ∧
      ¬InCode ex (((ex.readReg .pc).toNat : Int) - 4 + 4 * (16 : BitVec 24).toInt) := by decide
/-- The faults of the push: SP just above the memory, and V-SR-13 with HE below the code segment. -/
theorem witness_Call_push :
    (ex.he.toNat + 4 < ({ ex with sp := 2049 } : State).sp.toNat ∧
        ex.params.memSize < ({ ex with sp := 2049 } : State).sp.toNat) ∧
      (({ ex with he := 100 } : State).he.toNat + 4 < 260 ∧ 260 ≤ ex.params.memSize ∧ ¬Unprotected ex (260 - 4) 4) := by
  decide
theorem witness_CallThenReturn :
    CanPush ex ∧ InCode ex (((ex.readReg .pc).toNat : Int) - 4 + 4 * (3 : BitVec 24).toInt) ∧
      InCode ex ex.pc.toNat := by decide
theorem witness_SoftwareInterrupt :
    handled.mem.readWord (4 * if (63 : BitVec 24).toNat ≤ 63 then (63 : BitVec 24).toNat else 0) ≠ 0 ∧
      handled.mem.readWord (4 * if (64 : BitVec 24).toNat ≤ 63 then (64 : BitVec 24).toNat else 0) ≠ 0 ∧
      CanPush handled ∧ ex.mem.readWord (4 * 5) = 0 ∧ ¬CanPush { handled with sp := 324 } := by decide
theorem witness_Input :
    let s := withRegs ex [(r 1, 2040), (r 2, 8), (r 3, 7)]
    r 2 ∉ [Reg.he, .sp] ∧ ((r 2).writeProtected = true → s.params.wpWrite = .discard) ∧
      (s.readReg (r 3)).toNat = (7 : Fin 8).val ∧
      (s.readReg (r 1)).toNat + (s.readReg (r 2)).toNat ≤ s.params.memSize ∧
      Unprotected s (s.readReg (r 1)).toNat (s.readReg (r 2)).toNat := by decide
theorem witness_Output :
    let s := withRegs ex [(r 1, 5000), (r 3, 7)]
    r 2 ∉ [Reg.he, .sp] ∧ ((r 2).writeProtected = true → s.params.wpWrite = .discard) ∧
      (s.readReg (r 3)).toNat = (7 : Fin 8).val ∧
      ((s.readReg (r 2)).toNat ≠ 0 → (s.readReg (r 1)).toNat + (s.readReg (r 2)).toNat ≤ s.params.memSize) := by decide
theorem witness_TransferFaults :
    let s := withRegs ex [(r 1, 2045), (r 2, 4), (r 3, 7)]
    r 2 ∉ [Reg.he, .sp] ∧ 7 < ((withRegs ex [(r 3, 8)]).readReg (r 3)).toNat ∧
      ((s.readReg (r 3)).toNat ≤ 7 ∧ (s.readReg (r 2)).toNat ≠ 0 ∧
        s.params.memSize < (s.readReg (r 1)).toNat + (s.readReg (r 2)).toNat) ∧
      (252 + 5 ≤ s.params.memSize ∧ ¬Unprotected s 252 5) := by decide
theorem witness_TransferFaults_protected_count :
    Reg.zero ∉ [Reg.he, .sp] ∧ (strict.readReg (r 3)).toNat ≤ 7 ∧ (strict.readReg .zero).toNat = 0 ∧
      Unprotected strict (strict.readReg (r 1)).toNat 0 ∧ Reg.zero.writeProtected = true ∧
      strict.params.wpWrite = .int9 := by decide
/-- An OUT of the 260 bytes from 0 on, which touch the code segment, with PC as count register. -/
theorem witness_TransferFaults_out_of_code :
    (Reg.pc ∉ [Reg.he, .sp] ∧ Reg.pc.writeProtected = true ∧ strict.params.wpWrite = .int9 ∧
        (strict.readReg .zero).toNat + (strict.readReg .pc).toNat ≤ strict.params.memSize) ∧
      ¬Unprotected strict (strict.readReg .zero).toNat (strict.readReg .pc).toNat :=
  ⟨by decide, fun h => h 256 (by decide) (by decide) (by decide)⟩
theorem witness_CanonicalMemory :
    let m₁ := Memory.writeBytes [] 5 [1, 0, 2]
    let m₂ := Memory.writeBytes (Memory.writeBytes [] 7 [2, 9]) 5 [1, 0, 2, 0]
    m₁.wf = true ∧ m₂.wf = true ∧ m₁ = m₂ := by decide

end Sys2Proof.Tests
end

section
/-! SUPPORT. Start-up: what an accepted start-up answers, and the registers it leaves (10_state.md R41). -/

namespace Sys2Proof.Proofs

open Sys2Proof.Machine

/-- An accepted start-up breaks no requirement and answers the state its inputs describe
(70_reset_and_hazards.md R362, R363). -/
theorem startUp_eq_ok_iff {i : StartInputs} {s : State} :
    startUp i = .ok s ↔ i.check = none ∧ i.state = s := by
  unfold startUp
  cases i.check with
  | none => simp
  | some why => simp

/-- A general register reads the entry of the register file with its index. -/
theorem readReg_gen (s : State) (k : Fin 32) : s.readReg (.gen k) = s.gpr[k.val] := rfl

theorem readReg_gen_of_gpr_eq_replicate {s : State} {v : Word} (h : s.gpr = Vector.replicate 32 v)
    (k : Fin 32) : s.readReg (.gen k) = v := by
  simp only [readReg_gen, h, Vector.getElem_replicate]

theorem gpr_startInputs_state (i : StartInputs) : i.state.gpr = Vector.replicate 32 0 := rfl

theorem gpr_reset : State.reset.gpr = Vector.replicate 32 0 := rfl

/-- Settles O10: both states are built with a register file of 32 zeros, and a start-up that is not refused answers
exactly the state of its inputs. -/
theorem generalRegistersResetToZero : Obligations.GeneralRegistersResetToZero := by
  unfold Obligations.GeneralRegistersResetToZero
  refine ⟨fun i s hstart => ?afterStartUp, ?atReset⟩
  case afterStartUp =>
    obtain ⟨-, rfl⟩ := startUp_eq_ok_iff.mp hstart
    exact readReg_gen_of_gpr_eq_replicate (gpr_startInputs_state i)
  case atReset => exact readReg_gen_of_gpr_eq_replicate gpr_reset

end Sys2Proof.Proofs
end

section
/-! SUPPORT. The control instructions: what a fetch changes, what a step does where no word is fetched, and NOP
(10_state.md R46 to R49, 40_control.md R150). -/

namespace Sys2Proof.Proofs

open Sys2Proof.Machine

/-! ### Facts about the fetch -/

/-- The address after the fetched word, as a number (10_state.md R47). -/
theorem add_four_eq_ofNat (v : Word) : v + 4 = BitVec.ofNat 32 (v.toNat + 4) := by bv_omega

/-- What a fetch changes: IR and PC, and nothing else (10_state.md R46, R47). -/
theorem afterFetch_becomes (s : State) :
    Becomes s (afterFetch s)
      [(.ir, s.mem.readWord s.pc.toNat), (.pc, BitVec.ofNat 32 (s.pc.toNat + 4))] 0 [] := by
  refine ⟨fun r => ?registers, fun b => ?memory, rfl, rfl, rfl, rfl, rfl⟩
  case registers =>
    rw [afterFetch, fetchWord, add_four_eq_ofNat]
    simp only [readReg_setPc, readReg_setIr, lookup_cons_getD, lookup_nil_getD]
    by_cases hpc : r = .pc
    · subst hpc; simp
    · rw [if_neg hpc, if_neg hpc]
  case memory =>
    have hnone : ¬(0 ≤ b ∧ b < 0 + ([] : List Byte).length) := by simp
    rw [if_neg hnone]
    rfl

/-- A running machine that finds a word at PC has its four bytes in the code segment: the other direction of
`fetchKind_of_fetches`. -/
theorem fetches_of_fetchKind {s : State} (hrun : s.run = .running) (hkind : fetchKind s = .word) : Fetches s := by
  unfold fetchKind at hkind
  split at hkind
  next => cases hkind
  next =>
    split at hkind
    next => cases hkind
    next hin => exact ⟨hrun, by omega, by omega⟩

/-- All a step can answer where no word is fetched: the machine stays halted, or the program ends
(10_state.md R48, 60_exceptions.md R340). -/
theorem step_of_not_fetches {s t : State} (hno : ¬Fetches s) (h : step s = .next t) : t = s ∨ t = s.halt := by
  unfold step at h
  split at h
  next => exact .inl (by simpa using h.symm)
  next hrun =>
    split at h
    next => exact .inr (by simpa using h.symm)
    next => cases h
    next hkind => exact absurd (fetches_of_fetchKind hrun hkind) hno

/-! ### NOP -/

/-- The first byte alone makes a word a NOP (40_control.md R150). -/
theorem encoded000_nop : Encoded000 0x00 .nop := by
  intro u v w
  rw [decodeWord_wordOfBytes]
  exact decodeOpcode_nop _

theorem decodeWord_fetchWord_nop {s : State} (hzero : s.mem.read s.pc.toNat = 0) :
    decodeWord (fetchWord s) = .ok .nop := by
  rw [fetchWord, Memory.readWord, hzero]
  exact encoded000_nop _ _ _

theorem exec_nop_eq_next (s : State) : exec .nop s = .next s := by
  rw [exec_nop, execNop]
  exact complete_of_none firstCause_nil

/-- NOP adds nothing to its fetch (40_control.md R150). -/
theorem step_nop {s : State} (hf : Fetches s) (hzero : s.mem.read s.pc.toNat = 0) :
    step s = .next (afterFetch s) := by
  rw [step_of_instr hf (decodeWord_fetchWord_nop hzero), exec_nop_eq_next]

/-- Settles O59: the next state of a NOP is the state after its fetch, and a step without a fetch leaves the state as
it was or only halts it. -/
theorem nopStep : Obligations.NopStep := by
  unfold Obligations.NopStep
  refine ⟨encoded000_nop, fun s hf hzero => ?fetched, fun s t hno hstep => ?notFetched⟩
  case fetched => exact ⟨afterFetch s, step_nop hf hzero, afterFetch_becomes s⟩
  case notFetched =>
    obtain rfl | rfl := step_of_not_fetches hno hstep
    · rfl
    · exact readReg_halt s .ir

end Sys2Proof.Proofs
end

section
/-! SUPPORT. The encoding: each format's decoder and encoder undo each other, the opcode map row by row, and the words
that are no instruction (30_encoding.md sections 2, 4 and 5). -/

namespace Sys2Proof.Proofs

open Sys2Proof.Machine

/-! ### A row of the opcode map, by format

Where the decoder sends an opcode to the decoder of a format, the whole encoding of that row follows. -/

theorem encoded000_of_decodeOpcode {op : Byte} {i : Instr} (h : ∀ w, decodeOpcode op.toNat w = .ok i) :
    Encoded000 op i := fun u v w => by rw [decodeWord_wordOfBytes, h]

theorem encodedNNN_of_decodeOpcode {op : Byte} {make : BitVec 24 → Instr}
    (h : ∀ w, decodeOpcode op.toNat w = .ok (make (imm24Field w))) : EncodedNNN op make :=
  fun n => by rw [decodeWord_wordOfBytes, h, imm24Field_wordOfBytes]

theorem encodedR00_of_decodeOpcode {op : Byte} {make : Reg → Instr}
    (h : ∀ w, decodeOpcode op.toNat w = decodeR00 make w) : EncodedR00 op make :=
  ⟨fun x u v => by rw [decodeWord_wordOfBytes, h, decodeR00_wordOfBytes],
    fun b u v hb => raisesInvalidRegister_of_decode <| by
      rw [decodeWord_wordOfBytes, h, decodeR00_invalid make op u v hb]⟩

theorem encodedRNN_of_decodeOpcode {op : Byte} {make : Reg → BitVec 16 → Instr}
    (h : ∀ w, decodeOpcode op.toNat w = decodeRNN make w) : EncodedRNN op make :=
  ⟨fun x n => by rw [decodeWord_wordOfBytes, h, decodeRNN_wordOfBytes],
    fun b u v hb => raisesInvalidRegister_of_decode <| by
      rw [decodeWord_wordOfBytes, h, decodeRNN_invalid make op u v hb]⟩

theorem encodedRR0_of_decodeOpcode {op : Byte} {make : Reg → Reg → Instr}
    (h : ∀ w, decodeOpcode op.toNat w = decodeRR0 make w) : EncodedRR0 op make :=
  ⟨fun x y u => by rw [decodeWord_wordOfBytes, h, decodeRR0_wordOfBytes],
    fun b d u hb => raisesInvalidRegister_of_decode <| by
      rw [decodeWord_wordOfBytes, h, decodeRR0_invalid make op u hb]⟩

theorem encodedRRN_of_decodeOpcode {op : Byte} {make : Reg → Reg → BitVec 8 → Instr}
    (h : ∀ w, decodeOpcode op.toNat w = decodeRRN make w) : EncodedRRN op make :=
  ⟨fun x y n => by rw [decodeWord_wordOfBytes, h, decodeRRN_wordOfBytes],
    fun b d u hb => raisesInvalidRegister_of_decode <| by
      rw [decodeWord_wordOfBytes, h, decodeRRN_invalid make op u hb]⟩

theorem encodedRRR_of_decodeOpcode {op : Byte} {make : Reg → Reg → Reg → Instr}
    (h : ∀ w, decodeOpcode op.toNat w = decodeRRR make w) : EncodedRRR op make :=
  ⟨fun x y z => by rw [decodeWord_wordOfBytes, h, decodeRRR_wordOfBytes],
    fun b d e hb => raisesInvalidRegister_of_decode <| by
      rw [decodeWord_wordOfBytes, h, decodeRRR_invalid make op hb]⟩

/-- Settles O3: each row is the equation of the decoder at its opcode, and the invalid opcodes are rejected. -/
theorem opcodeMap : Obligations.OpcodeMap := by
  unfold Obligations.OpcodeMap
  refine ⟨⟨?_, ?_, ?_⟩, ⟨?_, ?_, ?_, ?_, ?_, ?_, ?_, ?_, ?_⟩, ⟨?_, ?_, ?_, ?_, ?_⟩, ⟨?_, ?_, ?_, ?_, ?_, ?_⟩,
    ⟨?_, ?_, ?_, ?_, ?_, ?_, ?_, ?_, ?_, ?_, ?_, ?_, ?_, ?_⟩,
    ⟨?_, ?_, ?_, ?_, ?_, ?_, ?_, ?_, ?_, ?_, ?_, ?_, ?_, ?_, ?_⟩,
    ⟨?_, ?_, ?_, ?_, ?_, ?_, ?_, ?_, ?_, ?_, ?_, ?_, ?_, ?_, ?_, ?_, ?_⟩, fun op u v w hop => ?invalid⟩
  case invalid => rw [decodeWord_wordOfBytes, decodeOpcode_invalid _ hop]
  · exact encoded000_of_decodeOpcode decodeOpcode_nop
  · exact encoded000_of_decodeOpcode decodeOpcode_eop
  · exact encoded000_of_decodeOpcode decodeOpcode_ret
  · exact encodedNNN_of_decodeOpcode decodeOpcode_be
  · exact encodedNNN_of_decodeOpcode decodeOpcode_bne
  · exact encodedNNN_of_decodeOpcode decodeOpcode_bl
  · exact encodedNNN_of_decodeOpcode decodeOpcode_ble
  · exact encodedNNN_of_decodeOpcode decodeOpcode_bg
  · exact encodedNNN_of_decodeOpcode decodeOpcode_bge
  · exact encodedNNN_of_decodeOpcode decodeOpcode_jmp
  · exact encodedNNN_of_decodeOpcode decodeOpcode_call
  · exact encodedNNN_of_decodeOpcode decodeOpcode_int
  · exact encodedR00_of_decodeOpcode decodeOpcode_push
  · exact encodedR00_of_decodeOpcode decodeOpcode_pop
  · exact encodedR00_of_decodeOpcode decodeOpcode_inc
  · exact encodedR00_of_decodeOpcode decodeOpcode_dec
  · exact encodedR00_of_decodeOpcode decodeOpcode_go
  · exact encodedRNN_of_decodeOpcode decodeOpcode_set
  · exact encodedRNN_of_decodeOpcode decodeOpcode_muli
  · exact encodedRNN_of_decodeOpcode decodeOpcode_divi
  · exact encodedRNN_of_decodeOpcode decodeOpcode_divi2
  · exact encodedRNN_of_decodeOpcode decodeOpcode_noti
  · exact encodedRNN_of_decodeOpcode decodeOpcode_cmpi
  · exact encodedRR0_of_decodeOpcode decodeOpcode_cp
  · exact encodedRR0_of_decodeOpcode decodeOpcode_lb
  · exact encodedRR0_of_decodeOpcode decodeOpcode_lw
  · exact encodedRR0_of_decodeOpcode decodeOpcode_sb
  · exact encodedRR0_of_decodeOpcode decodeOpcode_sw
  · exact encodedRR0_of_decodeOpcode decodeOpcode_mul
  · exact encodedRR0_of_decodeOpcode decodeOpcode_mulu
  · exact encodedRR0_of_decodeOpcode decodeOpcode_div
  · exact encodedRR0_of_decodeOpcode decodeOpcode_divu
  · exact encodedRR0_of_decodeOpcode decodeOpcode_abs
  · exact encodedRR0_of_decodeOpcode decodeOpcode_neg
  · exact encodedRR0_of_decodeOpcode decodeOpcode_not
  · exact encodedRR0_of_decodeOpcode decodeOpcode_cmp
  · exact encodedRR0_of_decodeOpcode decodeOpcode_cmpu
  · exact encodedRRN_of_decodeOpcode decodeOpcode_addi
  · exact encodedRRN_of_decodeOpcode decodeOpcode_subi
  · exact encodedRRN_of_decodeOpcode decodeOpcode_subi2
  · exact encodedRRN_of_decodeOpcode decodeOpcode_modi
  · exact encodedRRN_of_decodeOpcode decodeOpcode_modi2
  · exact encodedRRN_of_decodeOpcode decodeOpcode_andi
  · exact encodedRRN_of_decodeOpcode decodeOpcode_ori
  · exact encodedRRN_of_decodeOpcode decodeOpcode_xori
  · exact encodedRRN_of_decodeOpcode decodeOpcode_nandi
  · exact encodedRRN_of_decodeOpcode decodeOpcode_nori
  · exact encodedRRN_of_decodeOpcode decodeOpcode_shli
  · exact encodedRRN_of_decodeOpcode decodeOpcode_shri
  · exact encodedRRN_of_decodeOpcode decodeOpcode_shrai
  · exact encodedRRN_of_decodeOpcode decodeOpcode_rotli
  · exact encodedRRN_of_decodeOpcode decodeOpcode_rotri
  · exact encodedRRR_of_decodeOpcode decodeOpcode_add
  · exact encodedRRR_of_decodeOpcode decodeOpcode_addu
  · exact encodedRRR_of_decodeOpcode decodeOpcode_sub
  · exact encodedRRR_of_decodeOpcode decodeOpcode_subu
  · exact encodedRRR_of_decodeOpcode decodeOpcode_mod
  · exact encodedRRR_of_decodeOpcode decodeOpcode_and
  · exact encodedRRR_of_decodeOpcode decodeOpcode_or
  · exact encodedRRR_of_decodeOpcode decodeOpcode_xor
  · exact encodedRRR_of_decodeOpcode decodeOpcode_nand
  · exact encodedRRR_of_decodeOpcode decodeOpcode_nor
  · exact encodedRRR_of_decodeOpcode decodeOpcode_shl
  · exact encodedRRR_of_decodeOpcode decodeOpcode_shr
  · exact encodedRRR_of_decodeOpcode decodeOpcode_shra
  · exact encodedRRR_of_decodeOpcode decodeOpcode_rotl
  · exact encodedRRR_of_decodeOpcode decodeOpcode_rotr
  · exact encodedRRR_of_decodeOpcode decodeOpcode_inp
  · exact encodedRRR_of_decodeOpcode decodeOpcode_out

/-! ### Decoding an encoding -/

theorem decodeWord_opcodeWord_zero {op : Byte} {i : Instr} (h : ∀ w, decodeOpcode op.toNat w = .ok i) :
    decodeWord (opcodeWord op 0) = .ok i := by
  rw [opcodeWord_eq]; exact encoded000_of_decodeOpcode h _ _ _

theorem decodeWord_opcodeWord {op : Byte} {make : BitVec 24 → Instr}
    (h : ∀ w, decodeOpcode op.toNat w = .ok (make (imm24Field w))) (n : BitVec 24) :
    decodeWord (opcodeWord op n) = .ok (make n) := by
  rw [opcodeWord_eq]; exact encodedNNN_of_decodeOpcode h n

theorem decodeWord_encodeR00 {op : Byte} {make : Reg → Instr} (h : ∀ w, decodeOpcode op.toNat w = decodeR00 make w)
    (x : Reg) : decodeWord (encodeR00 op x) = .ok (make x) := by
  rw [encodeR00_eq]; exact (encodedR00_of_decodeOpcode h).1 x 0 0

theorem decodeWord_encodeRNN {op : Byte} {make : Reg → BitVec 16 → Instr}
    (h : ∀ w, decodeOpcode op.toNat w = decodeRNN make w) (x : Reg) (n : BitVec 16) :
    decodeWord (encodeRNN op x n) = .ok (make x n) := by
  rw [encodeRNN_eq]; exact (encodedRNN_of_decodeOpcode h).1 x n

theorem decodeWord_encodeRR0 {op : Byte} {make : Reg → Reg → Instr}
    (h : ∀ w, decodeOpcode op.toNat w = decodeRR0 make w) (x y : Reg) :
    decodeWord (encodeRR0 op x y) = .ok (make x y) := by
  rw [encodeRR0_eq]; exact (encodedRR0_of_decodeOpcode h).1 x y 0

theorem decodeWord_encodeRRN {op : Byte} {make : Reg → Reg → BitVec 8 → Instr}
    (h : ∀ w, decodeOpcode op.toNat w = decodeRRN make w) (x y : Reg) (n : BitVec 8) :
    decodeWord (encodeRRN op x y n) = .ok (make x y n) := by
  rw [encodeRRN_eq]; exact (encodedRRN_of_decodeOpcode h).1 x y n

theorem decodeWord_encodeRRR {op : Byte} {make : Reg → Reg → Reg → Instr}
    (h : ∀ w, decodeOpcode op.toNat w = decodeRRR make w) (x y z : Reg) :
    decodeWord (encodeRRR op x y z) = .ok (make x y z) := by
  rw [encodeRRR_eq]; exact (encodedRRR_of_decodeOpcode h).1 x y z

/-- The word of an instruction decodes to it: one format at a time, since `encode` and the decoder name the same format
and the same opcode for each instruction. -/
theorem decodeWord_encode (i : Instr) : decodeWord (encode i) = .ok i := by
  cases i with
  | nop | eop | ret => exact decodeWord_opcodeWord_zero fun _ => rfl
  | be n | bne n | bl n | ble n | bg n | bge n | jmp n | call n | int n =>
    exact decodeWord_opcodeWord (fun _ => rfl) n
  | push x | pop x | inc x | dec x | go x => exact decodeWord_encodeR00 (fun _ => rfl) x
  | set x n | muli x n | divi x n | divi2 x n | noti x n | cmpi x n => exact decodeWord_encodeRNN (fun _ => rfl) x n
  | cp x y | lb x y | lw x y | sb x y | sw x y | mul x y | mulu x y | div x y | divu x y | abs x y | neg x y | not x y
  | cmp x y | cmpu x y => exact decodeWord_encodeRR0 (fun _ => rfl) x y
  | addi x y n | subi x y n | subi2 x y n | modi x y n | modi2 x y n | andi x y n | ori x y n | xori x y n | nandi x y n
  | nori x y n | shli x y n | shri x y n | shrai x y n | rotli x y n | rotri x y n =>
    exact decodeWord_encodeRRN (fun _ => rfl) x y n
  | add x y z | addu x y z | sub x y z | subu x y z | mod x y z | and x y z | or x y z | xor x y z | nand x y z
  | nor x y z | shl x y z | shr x y z | shra x y z | rotl x y z | rotr x y z | inp x y z | out x y z =>
    exact decodeWord_encodeRRR (fun _ => rfl) x y z

/-- The bytes of a word, with bytes behind them, decode as the word does. -/
theorem decode_bytesOfWord_append {w : Word} {i : Instr} (h : decodeWord w = .ok i) (rest : List Byte) :
    decode (bytesOfWord w ++ rest) = .ok (i, rest) := by
  have hw : decodeWord (wordOfBytes (w.extractLsb' 24 8) (w.extractLsb' 16 8) (w.extractLsb' 8 8)
      (w.extractLsb' 0 8)) = .ok i := by rw [wordOfBytes_bytes, h]
  simp only [bytesOfWord, List.cons_append, List.nil_append, decode, hw]

/-- Settles O1: the word of an instruction decodes to it, and `decode` reads exactly its four bytes. -/
theorem decodeAfterEncode : Obligations.DecodeAfterEncode :=
  fun i rest => decode_bytesOfWord_append (decodeWord_encode i) rest

/-! ### Register bytes -/

/-- The number of the register a number names is that number: the other direction of `ofNum_num`. -/
theorem num_of_ofNum_eq_some {n : Nat} {x : Reg} (h : Reg.ofNum n = some x) : x.num = n := by
  unfold Reg.ofNum at h
  split at h
  case h_14 hzero _ _ _ _ _ _ _ _ _ _ _ _ =>
    split at h
    next hk =>
      obtain rfl : Reg.gen _ = x := Option.some.inj h
      exact Nat.sub_add_cancel (Nat.pos_of_ne_zero hzero)
    next => cases h
  all_goals cases h; rfl

/-- The byte that names a register is the register's byte. -/
theorem regByte_of_ofNum_eq_some {b : Byte} {x : Reg} (h : Reg.ofNum b.toNat = some x) : regByte x = b := by
  apply BitVec.eq_of_toNat_eq
  rw [regByte_toNat, num_of_ofNum_eq_some h]

/-- A byte up to 44 is the byte of a register (10_state.md R34). -/
theorem exists_regByte_eq {b : Byte} (h : b.toNat ≤ 44) : ∃ x, regByte x = b := by
  cases hx : Reg.ofNum b.toNat with
  | none => exact absurd ((ofNum_eq_none b).mp hx) (by omega)
  | some x => exact ⟨x, regByte_of_ofNum_eq_some hx⟩

/-- A byte is that of a register, or it is above 44. -/
theorem regByte_or_lt (b : Byte) : (∃ x, b = regByte x) ∨ 44 < b.toNat := by
  rcases Nat.lt_or_ge 44 b.toNat with h | h
  · exact .inr h
  · obtain ⟨x, rfl⟩ := exists_regByte_eq h
    exact .inl ⟨x, rfl⟩

/-! ### Immediates of a word made of four bytes -/

/-- The last two bytes of a word are those of its 16-bit immediate. -/
theorem exists_bytes16 (c d : Byte) : ∃ n : BitVec 16, c = n.extractLsb' 8 8 ∧ d = n.extractLsb' 0 8 := by
  have hc := c.isLt; have hd := d.isLt
  refine ⟨BitVec.ofNat 16 (c.toNat * 256 + d.toNat), ?_, ?_⟩ <;> apply BitVec.eq_of_toNat_eq <;>
    simp only [BitVec.extractLsb'_toNat, BitVec.toNat_ofNat, Nat.shiftRight_eq_div_pow] <;> omega

/-- The last three bytes of a word are those of its 24-bit immediate. -/
theorem exists_bytes24 (b c d : Byte) :
    ∃ n : BitVec 24, b = n.extractLsb' 16 8 ∧ c = n.extractLsb' 8 8 ∧ d = n.extractLsb' 0 8 := by
  have hb := b.isLt; have hc := c.isLt; have hd := d.isLt
  refine ⟨BitVec.ofNat 24 ((b.toNat * 256 + c.toNat) * 256 + d.toNat), ?_, ?_, ?_⟩ <;> apply BitVec.eq_of_toNat_eq <;>
    simp only [BitVec.extractLsb'_toNat, BitVec.toNat_ofNat, Nat.shiftRight_eq_div_pow] <;> omega

/-! ### Used bits and register bytes of a word made of four bytes -/

theorem exists_wordOfBytes (w : Word) : ∃ op b c d : Byte, w = wordOfBytes op b c d :=
  ⟨_, _, _, _, (wordOfBytes_fields w).symm⟩

theorem byte3_wordOfBytes (a b c d : Byte) : (wordOfBytes a b c d).extractLsb' 24 8 = a :=
  opcodeField_wordOfBytes a b c d
theorem byte2_wordOfBytes (a b c d : Byte) : (wordOfBytes a b c d).extractLsb' 16 8 = b := xField_wordOfBytes a b c d
theorem byte1_wordOfBytes (a b c d : Byte) : (wordOfBytes a b c d).extractLsb' 8 8 = c := yField_wordOfBytes a b c d
theorem byte0_wordOfBytes (a b c d : Byte) : (wordOfBytes a b c d).extractLsb' 0 8 = d := zField_wordOfBytes a b c d

/-- Conjunction goes byte by byte. -/
theorem wordOfBytes_and (a b c d a' b' c' d' : Byte) :
    wordOfBytes a b c d &&& wordOfBytes a' b' c' d' = wordOfBytes (a &&& a') (b &&& b') (c &&& c') (d &&& d') := by
  have split_and : ∀ (v v' : Word) (k : Nat),
      (v &&& v').extractLsb' k 8 = v.extractLsb' k 8 &&& v'.extractLsb' k 8 := fun _ _ _ => BitVec.extractLsb'_and
  have h := wordOfBytes_bytes (wordOfBytes a b c d &&& wordOfBytes a' b' c' d')
  simpa only [split_and, byte3_wordOfBytes, byte2_wordOfBytes, byte1_wordOfBytes, byte0_wordOfBytes] using h.symm

/-- The used bits depend on the opcode only. -/
theorem usedBits_wordOfBytes (op b c d : Byte) :
    usedBits (wordOfBytes op b c d) = usedBits (wordOfBytes op 0 0 0) := by
  simp only [usedBits, byte3_wordOfBytes]

/-- The register bytes are as many of the bytes after the opcode as the opcode asks for. -/
theorem registerBytes_wordOfBytes (op b c d : Byte) :
    registerBytes (wordOfBytes op b c d) = [b, c, d].take (registerFieldCount op.toNat) := by
  simp only [registerBytes, byte3_wordOfBytes, byte2_wordOfBytes, byte1_wordOfBytes, byte0_wordOfBytes]

/-! ### The format of every valid opcode -/

/-- Opcode `op` has one of the seven formats: its decoder, its encoder, its register bytes and its used bits are
those of the format, with the same constructor (30_encoding.md R122 to R129). -/
inductive FormatAt (op : Byte) : Prop
  | f000 (i : Instr) (hdecode : ∀ w, decodeOpcode op.toNat w = .ok i) (hencode : encode i = opcodeWord op 0)
      (hregs : registerFieldCount op.toNat = 0)
      (hused : usedBits (wordOfBytes op 0 0 0) = wordOfBytes 0xFF 0 0 0)
  | fNNN (make : BitVec 24 → Instr) (hdecode : ∀ w, decodeOpcode op.toNat w = .ok (make (imm24Field w)))
      (hencode : ∀ n, encode (make n) = opcodeWord op n)
      (hregs : registerFieldCount op.toNat = 0)
      (hused : usedBits (wordOfBytes op 0 0 0) = wordOfBytes 0xFF 0xFF 0xFF 0xFF)
  | fR00 (make : Reg → Instr) (hdecode : ∀ w, decodeOpcode op.toNat w = decodeR00 make w)
      (hencode : ∀ x, encode (make x) = encodeR00 op x)
      (hregs : registerFieldCount op.toNat = 1)
      (hused : usedBits (wordOfBytes op 0 0 0) = wordOfBytes 0xFF 0xFF 0 0)
  | fRNN (make : Reg → BitVec 16 → Instr) (hdecode : ∀ w, decodeOpcode op.toNat w = decodeRNN make w)
      (hencode : ∀ x n, encode (make x n) = encodeRNN op x n)
      (hregs : registerFieldCount op.toNat = 1)
      (hused : usedBits (wordOfBytes op 0 0 0) = wordOfBytes 0xFF 0xFF 0xFF 0xFF)
  | fRR0 (make : Reg → Reg → Instr) (hdecode : ∀ w, decodeOpcode op.toNat w = decodeRR0 make w)
      (hencode : ∀ x y, encode (make x y) = encodeRR0 op x y)
      (hregs : registerFieldCount op.toNat = 2)
      (hused : usedBits (wordOfBytes op 0 0 0) = wordOfBytes 0xFF 0xFF 0xFF 0)
  | fRRN (make : Reg → Reg → BitVec 8 → Instr) (hdecode : ∀ w, decodeOpcode op.toNat w = decodeRRN make w)
      (hencode : ∀ x y n, encode (make x y n) = encodeRRN op x y n)
      (hregs : registerFieldCount op.toNat = 2)
      (hused : usedBits (wordOfBytes op 0 0 0) = wordOfBytes 0xFF 0xFF 0xFF 0xFF)
  | fRRR (make : Reg → Reg → Reg → Instr) (hdecode : ∀ w, decodeOpcode op.toNat w = decodeRRR make w)
      (hencode : ∀ x y z, encode (make x y z) = encodeRRR op x y z)
      (hregs : registerFieldCount op.toNat = 3)
      (hused : usedBits (wordOfBytes op 0 0 0) = wordOfBytes 0xFF 0xFF 0xFF 0xFF)

/-- The 69 opcodes, in the order of their formats (30_encoding.md R131). -/
def validOpcodes : List Byte :=
  [0x00, 0x04, 0x92,
    0x80, 0x81, 0x82, 0x83, 0x84, 0x85, 0x88, 0x91, 0xA0,
    0x18, 0x19, 0x42, 0x43, 0x90,
    0x10, 0x3A, 0x3D, 0x3E, 0x57, 0x72,
    0x11, 0x12, 0x13, 0x14, 0x15, 0x38, 0x39, 0x3B, 0x3C, 0x40, 0x41, 0x56, 0x70, 0x71,
    0x32, 0x35, 0x36, 0x49, 0x4A, 0x51, 0x53, 0x55, 0x59, 0x5B, 0x61, 0x63, 0x65, 0x69, 0x6B,
    0x30, 0x31, 0x33, 0x34, 0x48, 0x50, 0x52, 0x54, 0x58, 0x5A, 0x60, 0x62, 0x64, 0x68, 0x6A, 0xB0, 0xB8]

/-- The opcode bytes are those not in the list of 30_encoding.md R135. -/
theorem mem_validOpcodes : ∀ op : Byte, isInvalidOpcode op = false → op ∈ validOpcodes := by decide

theorem formatAt_of_mem : ∀ op ∈ validOpcodes, FormatAt op := by
  simp only [validOpcodes, List.forall_mem_cons]
  exact ⟨.f000 .nop decodeOpcode_nop rfl rfl rfl, .f000 .eop decodeOpcode_eop rfl rfl rfl,
    .f000 .ret decodeOpcode_ret rfl rfl rfl,
    .fNNN .be decodeOpcode_be (fun _ => rfl) rfl rfl, .fNNN .bne decodeOpcode_bne (fun _ => rfl) rfl rfl,
    .fNNN .bl decodeOpcode_bl (fun _ => rfl) rfl rfl, .fNNN .ble decodeOpcode_ble (fun _ => rfl) rfl rfl,
    .fNNN .bg decodeOpcode_bg (fun _ => rfl) rfl rfl, .fNNN .bge decodeOpcode_bge (fun _ => rfl) rfl rfl,
    .fNNN .jmp decodeOpcode_jmp (fun _ => rfl) rfl rfl, .fNNN .call decodeOpcode_call (fun _ => rfl) rfl rfl,
    .fNNN .int decodeOpcode_int (fun _ => rfl) rfl rfl,
    .fR00 .push decodeOpcode_push (fun _ => rfl) rfl rfl, .fR00 .pop decodeOpcode_pop (fun _ => rfl) rfl rfl,
    .fR00 .inc decodeOpcode_inc (fun _ => rfl) rfl rfl, .fR00 .dec decodeOpcode_dec (fun _ => rfl) rfl rfl,
    .fR00 .go decodeOpcode_go (fun _ => rfl) rfl rfl,
    .fRNN .set decodeOpcode_set (fun _ _ => rfl) rfl rfl, .fRNN .muli decodeOpcode_muli (fun _ _ => rfl) rfl rfl,
    .fRNN .divi decodeOpcode_divi (fun _ _ => rfl) rfl rfl, .fRNN .divi2 decodeOpcode_divi2 (fun _ _ => rfl) rfl rfl,
    .fRNN .noti decodeOpcode_noti (fun _ _ => rfl) rfl rfl, .fRNN .cmpi decodeOpcode_cmpi (fun _ _ => rfl) rfl rfl,
    .fRR0 .cp decodeOpcode_cp (fun _ _ => rfl) rfl rfl, .fRR0 .lb decodeOpcode_lb (fun _ _ => rfl) rfl rfl,
    .fRR0 .lw decodeOpcode_lw (fun _ _ => rfl) rfl rfl, .fRR0 .sb decodeOpcode_sb (fun _ _ => rfl) rfl rfl,
    .fRR0 .sw decodeOpcode_sw (fun _ _ => rfl) rfl rfl, .fRR0 .mul decodeOpcode_mul (fun _ _ => rfl) rfl rfl,
    .fRR0 .mulu decodeOpcode_mulu (fun _ _ => rfl) rfl rfl, .fRR0 .div decodeOpcode_div (fun _ _ => rfl) rfl rfl,
    .fRR0 .divu decodeOpcode_divu (fun _ _ => rfl) rfl rfl, .fRR0 .abs decodeOpcode_abs (fun _ _ => rfl) rfl rfl,
    .fRR0 .neg decodeOpcode_neg (fun _ _ => rfl) rfl rfl, .fRR0 .not decodeOpcode_not (fun _ _ => rfl) rfl rfl,
    .fRR0 .cmp decodeOpcode_cmp (fun _ _ => rfl) rfl rfl, .fRR0 .cmpu decodeOpcode_cmpu (fun _ _ => rfl) rfl rfl,
    .fRRN .addi decodeOpcode_addi (fun _ _ _ => rfl) rfl rfl,
    .fRRN .subi decodeOpcode_subi (fun _ _ _ => rfl) rfl rfl,
    .fRRN .subi2 decodeOpcode_subi2 (fun _ _ _ => rfl) rfl rfl,
    .fRRN .modi decodeOpcode_modi (fun _ _ _ => rfl) rfl rfl,
    .fRRN .modi2 decodeOpcode_modi2 (fun _ _ _ => rfl) rfl rfl,
    .fRRN .andi decodeOpcode_andi (fun _ _ _ => rfl) rfl rfl, .fRRN .ori decodeOpcode_ori (fun _ _ _ => rfl) rfl rfl,
    .fRRN .xori decodeOpcode_xori (fun _ _ _ => rfl) rfl rfl,
    .fRRN .nandi decodeOpcode_nandi (fun _ _ _ => rfl) rfl rfl,
    .fRRN .nori decodeOpcode_nori (fun _ _ _ => rfl) rfl rfl,
    .fRRN .shli decodeOpcode_shli (fun _ _ _ => rfl) rfl rfl,
    .fRRN .shri decodeOpcode_shri (fun _ _ _ => rfl) rfl rfl,
    .fRRN .shrai decodeOpcode_shrai (fun _ _ _ => rfl) rfl rfl,
    .fRRN .rotli decodeOpcode_rotli (fun _ _ _ => rfl) rfl rfl,
    .fRRN .rotri decodeOpcode_rotri (fun _ _ _ => rfl) rfl rfl,
    .fRRR .add decodeOpcode_add (fun _ _ _ => rfl) rfl rfl, .fRRR .addu decodeOpcode_addu (fun _ _ _ => rfl) rfl rfl,
    .fRRR .sub decodeOpcode_sub (fun _ _ _ => rfl) rfl rfl, .fRRR .subu decodeOpcode_subu (fun _ _ _ => rfl) rfl rfl,
    .fRRR .mod decodeOpcode_mod (fun _ _ _ => rfl) rfl rfl, .fRRR .and decodeOpcode_and (fun _ _ _ => rfl) rfl rfl,
    .fRRR .or decodeOpcode_or (fun _ _ _ => rfl) rfl rfl, .fRRR .xor decodeOpcode_xor (fun _ _ _ => rfl) rfl rfl,
    .fRRR .nand decodeOpcode_nand (fun _ _ _ => rfl) rfl rfl, .fRRR .nor decodeOpcode_nor (fun _ _ _ => rfl) rfl rfl,
    .fRRR .shl decodeOpcode_shl (fun _ _ _ => rfl) rfl rfl, .fRRR .shr decodeOpcode_shr (fun _ _ _ => rfl) rfl rfl,
    .fRRR .shra decodeOpcode_shra (fun _ _ _ => rfl) rfl rfl,
    .fRRR .rotl decodeOpcode_rotl (fun _ _ _ => rfl) rfl rfl,
    .fRRR .rotr decodeOpcode_rotr (fun _ _ _ => rfl) rfl rfl, .fRRR .inp decodeOpcode_inp (fun _ _ _ => rfl) rfl rfl,
    .fRRR .out decodeOpcode_out (fun _ _ _ => rfl) rfl rfl,
    fun _ h => nomatch h⟩

theorem formatAt_of_valid {op : Byte} (h : isInvalidOpcode op = false) : FormatAt op :=
  formatAt_of_mem op (mem_validOpcodes op h)

/-! ### Encoding a decoding -/

theorem wordOfBytes_and_mask (op b c d : Byte) :
    wordOfBytes op b c d &&& wordOfBytes 0xFF 0 0 0 = wordOfBytes op 0 0 0 ∧
      wordOfBytes op b c d &&& wordOfBytes 0xFF 0xFF 0 0 = wordOfBytes op b 0 0 ∧
      wordOfBytes op b c d &&& wordOfBytes 0xFF 0xFF 0xFF 0 = wordOfBytes op b c 0 ∧
      wordOfBytes op b c d &&& wordOfBytes 0xFF 0xFF 0xFF 0xFF = wordOfBytes op b c d := by
  have hones : ∀ e : Byte, e &&& 0xFF = e := fun e => BitVec.and_allOnes
  have hzero : ∀ e : Byte, e &&& 0 = 0 := fun e => BitVec.and_zero
  simp only [wordOfBytes_and, hones, hzero, and_self]

theorem decodeWord_ok_opcode_valid {op b c d : Byte} {i : Instr} (h : decodeWord (wordOfBytes op b c d) = .ok i) :
    isInvalidOpcode op = false := by
  by_contra hinv
  rw [decodeWord_wordOfBytes, decodeOpcode_invalid _ (by simpa using hinv)] at h
  cases h

/-- Settles O2: by the format of the word's opcode; a register byte that decodes is its register's. -/
theorem encodeAfterDecode : Obligations.EncodeAfterDecode := by
  intro w i h
  obtain ⟨op, b, c, d, rfl⟩ := exists_wordOfBytes w
  obtain ⟨mask1, mask2, mask3, mask4⟩ := wordOfBytes_and_mask op b c d
  have hformat := formatAt_of_valid (decodeWord_ok_opcode_valid h)
  rw [usedBits_wordOfBytes]
  rw [decodeWord_wordOfBytes] at h
  cases hformat with
  | f000 j hdecode hencode _ hused =>
    rw [hdecode] at h; cases h
    rw [hencode, hused, mask1, opcodeWord_eq]; rfl
  | fNNN make hdecode hencode _ hused =>
    obtain ⟨n, rfl, rfl, rfl⟩ := exists_bytes24 b c d
    rw [hdecode, imm24Field_wordOfBytes] at h; cases h
    rw [hencode, hused, mask4, opcodeWord_eq]
  | fR00 make hdecode hencode _ hused =>
    rw [hdecode] at h
    obtain ⟨x, rfl⟩ | hb := regByte_or_lt b
    · rw [decodeR00_wordOfBytes] at h; cases h
      rw [hencode, hused, mask2, encodeR00_eq]
    · rw [decodeR00_invalid make op c d hb] at h; cases h
  | fRNN make hdecode hencode _ hused =>
    rw [hdecode] at h
    obtain ⟨x, rfl⟩ | hb := regByte_or_lt b
    · obtain ⟨n, rfl, rfl⟩ := exists_bytes16 c d
      rw [decodeRNN_wordOfBytes] at h; cases h
      rw [hencode, hused, mask4, encodeRNN_eq]
    · rw [decodeRNN_invalid make op c d hb] at h; cases h
  | fRR0 make hdecode hencode _ hused =>
    rw [hdecode] at h
    obtain ⟨x, rfl⟩ | hb := regByte_or_lt b
    · obtain ⟨y, rfl⟩ | hc := regByte_or_lt c
      · rw [decodeRR0_wordOfBytes] at h; cases h
        rw [hencode, hused, mask3, encodeRR0_eq]
      · rw [decodeRR0_invalid make op d (.inr hc)] at h; cases h
    · rw [decodeRR0_invalid make op d (.inl hb)] at h; cases h
  | fRRN make hdecode hencode _ hused =>
    rw [hdecode] at h
    obtain ⟨x, rfl⟩ | hb := regByte_or_lt b
    · obtain ⟨y, rfl⟩ | hc := regByte_or_lt c
      · rw [decodeRRN_wordOfBytes] at h; cases h
        rw [hencode, hused, mask4, encodeRRN_eq]
      · rw [decodeRRN_invalid make op d (.inr hc)] at h; cases h
    · rw [decodeRRN_invalid make op d (.inl hb)] at h; cases h
  | fRRR make hdecode hencode _ hused =>
    rw [hdecode] at h
    obtain ⟨x, rfl⟩ | hb := regByte_or_lt b
    · obtain ⟨y, rfl⟩ | hc := regByte_or_lt c
      · obtain ⟨z, rfl⟩ | hd := regByte_or_lt d
        · rw [decodeRRR_wordOfBytes] at h; cases h
          rw [hencode, hused, mask4, encodeRRR_eq]
        · rw [decodeRRR_invalid make op (.inr (.inr hd))] at h; cases h
      · rw [decodeRRR_invalid make op (.inr (.inl hc))] at h; cases h
    · rw [decodeRRR_invalid make op (.inl hb)] at h; cases h

/-! ### Words that are no instruction -/

/-- A word with a valid opcode and a register byte above 44 names no register (30_encoding.md R134). -/
theorem decodeWord_invalidRegister {w : Word} (hop : isInvalidOpcode (opcodeField w) = false)
    (hb : ∃ b ∈ registerBytes w, 44 < b.toNat) : decodeWord w = .error .invalidRegister := by
  obtain ⟨op, b, c, d, rfl⟩ := exists_wordOfBytes w
  rw [opcodeField_wordOfBytes] at hop
  rw [registerBytes_wordOfBytes] at hb
  rw [decodeWord_wordOfBytes]
  cases formatAt_of_valid hop with
  | f000 j _ _ hregs _ => simp [hregs] at hb
  | fNNN make _ _ hregs _ => simp [hregs] at hb
  | fR00 make hdecode _ hregs _ =>
    rw [hdecode, decodeR00_invalid make op c d (by simpa [hregs] using hb)]
  | fRNN make hdecode _ hregs _ =>
    rw [hdecode, decodeRNN_invalid make op c d (by simpa [hregs] using hb)]
  | fRR0 make hdecode _ hregs _ =>
    rw [hdecode, decodeRR0_invalid make op d (by simpa [hregs] using hb)]
  | fRRN make hdecode _ hregs _ =>
    rw [hdecode, decodeRRN_invalid make op d (by simpa [hregs] using hb)]
  | fRRR make hdecode _ hregs _ =>
    rw [hdecode, decodeRRR_invalid make op (by simpa [hregs] using hb)]

/-- A word with a valid opcode and no register byte above 44 is an instruction. -/
theorem exists_decodeWord_eq_ok {w : Word} (hop : isInvalidOpcode (opcodeField w) = false)
    (hb : ∀ b ∈ registerBytes w, b.toNat ≤ 44) : ∃ i, decodeWord w = .ok i := by
  obtain ⟨op, b, c, d, rfl⟩ := exists_wordOfBytes w
  rw [opcodeField_wordOfBytes] at hop
  rw [registerBytes_wordOfBytes] at hb
  rw [decodeWord_wordOfBytes]
  cases formatAt_of_valid hop with
  | f000 j hdecode _ _ _ => exact ⟨j, hdecode _⟩
  | fNNN make hdecode _ _ _ => exact ⟨_, hdecode _⟩
  | fR00 make hdecode _ hregs _ =>
    obtain ⟨x, rfl⟩ := exists_regByte_eq (hb b (by simp [hregs]))
    exact ⟨_, (hdecode _).trans (decodeR00_wordOfBytes make op x c d)⟩
  | fRNN make hdecode _ hregs _ =>
    obtain ⟨x, rfl⟩ := exists_regByte_eq (hb b (by simp [hregs]))
    obtain ⟨n, rfl, rfl⟩ := exists_bytes16 c d
    exact ⟨_, (hdecode _).trans (decodeRNN_wordOfBytes make op x n)⟩
  | fRR0 make hdecode _ hregs _ =>
    obtain ⟨x, rfl⟩ := exists_regByte_eq (hb b (by simp [hregs]))
    obtain ⟨y, rfl⟩ := exists_regByte_eq (hb c (by simp [hregs]))
    exact ⟨_, (hdecode _).trans (decodeRR0_wordOfBytes make op x y d)⟩
  | fRRN make hdecode _ hregs _ =>
    obtain ⟨x, rfl⟩ := exists_regByte_eq (hb b (by simp [hregs]))
    obtain ⟨y, rfl⟩ := exists_regByte_eq (hb c (by simp [hregs]))
    exact ⟨_, (hdecode _).trans (decodeRRN_wordOfBytes make op x y d)⟩
  | fRRR make hdecode _ hregs _ =>
    obtain ⟨x, rfl⟩ := exists_regByte_eq (hb b (by simp [hregs]))
    obtain ⟨y, rfl⟩ := exists_regByte_eq (hb c (by simp [hregs]))
    obtain ⟨z, rfl⟩ := exists_regByte_eq (hb d (by simp [hregs]))
    exact ⟨_, (hdecode _).trans (decodeRRR_wordOfBytes make op x y z)⟩

/-- The opcode of the fetched word is the byte at PC (30_encoding.md R121). -/
theorem opcodeField_fetchWord (s : State) : opcodeField (fetchWord s) = s.mem.read s.pc.toNat :=
  opcodeField_wordOfBytes _ _ _ _

theorem decodeWord_of_invalidOpcode {w : Word} (h : isInvalidOpcode (opcodeField w) = true) :
    decodeWord w = .error .invalidOpcode := decodeOpcode_invalid w h

/-- Settles O7: by the format of the fetched word's opcode. -/
theorem decodeFaults : Obligations.DecodeFaults := by
  unfold Obligations.DecodeFaults
  refine ⟨fun s hf hop => ?invalidOpcode, fun s hf hop hb => ?invalidRegister, fun w hop hb => ?instruction⟩
  case invalidOpcode =>
    rw [← opcodeField_fetchWord] at hop
    rw [step_of_reject hf (decodeWord_of_invalidOpcode hop), rejectCause]
  case invalidRegister =>
    rw [← opcodeField_fetchWord] at hop
    rw [step_of_reject hf (decodeWord_invalidRegister hop hb), rejectCause]
  case instruction => exact exists_decodeWord_eq_ok hop hb

/-- Settles O4: the numbers of the general registers, the table of the others, and one word of each format decoded. -/
theorem registerNumbersAndSampleWords : Obligations.RegisterNumbersAndSampleWords :=
  ⟨ofNum_gen, rfl, fun _ => ofNum_of_lt, rfl, rfl, rfl, rfl, rfl, rfl, rfl, rfl⟩

/-! ### The fetch -/

theorem decodeWord_of_decode {b0 b1 b2 b3 : Byte} {rest rest' : List Byte} {i : Instr}
    (h : decode (b0 :: b1 :: b2 :: b3 :: rest) = .ok (i, rest')) : decodeWord (wordOfBytes b0 b1 b2 b3) = .ok i := by
  simp only [decode] at h
  split at h
  next j hj => cases h; exact hj
  next => cases h

/-- What the four bytes at an address decode to, the word there decodes to. -/
theorem decodeWord_readWord_of_decode {m : Memory} {a : Nat} {i : Instr}
    (h : decode (m.readBytes a 4) = .ok (i, [])) :
    decodeWord (m.readWord a) = .ok i := decodeWord_of_decode h

/-- Settles O5: the word at PC decodes as its four bytes do, and the state it runs in is the one after the fetch. -/
theorem stepRunsDecoded : Obligations.StepRunsDecoded := by
  intro s i hf hd
  obtain ⟨-, -, hpc⟩ := id hf
  refine ⟨step_of_instr hf (decodeWord_readWord_of_decode hd), afterFetch_becomes s, ?_⟩
  have hds := s.ds.isLt
  omega

theorem fetchKind_of_ds_le {s : State} (h : s.ds.toNat ≤ s.pc.toNat) : fetchKind s = .endOfProgram := if_pos h

theorem fetchKind_of_outside {s : State} (hlt : s.pc.toNat < s.ds.toNat)
    (h : s.pc.toNat < 256 ∨ s.ds.toNat ≤ s.pc.toNat + 3) : fetchKind s = .outsideCode := by
  unfold fetchKind
  rw [if_neg (by omega), if_pos h]

/-- Settles O6: the two answers of `fetchKind` that fetch no word. -/
theorem fetchOutsideCode : Obligations.FetchOutsideCode := by
  intro s hrun
  refine ⟨fun hend => ?_, fun hlt hout => ?_⟩
  · have hhalt : step s = .next s.halt := by simp only [step, hrun, fetchKind_of_ds_le hend]
    exact hhalt
  · simp only [step, hrun, fetchKind_of_outside hlt hout]

end Sys2Proof.Proofs
end

section
/-! SUPPORT. Memories that read the same are the same data, and the state after start-up (70_reset_and_hazards.md
section 1). -/

namespace Sys2Proof.Proofs

open Sys2Proof.Machine

/-! ### Equal reads, equal memories -/

/-- The first listed address reads as its entry, and no address below it is listed. -/
theorem read_of_wfFrom_cons {lo k : Nat} {c : Byte} {rest : Memory} (h : Memory.wfFrom lo ((k, c) :: rest) = true) :
    c ≠ unlistedByte ∧ Memory.wfFrom (k + 1) rest = true ∧ Memory.read ((k, c) :: rest) k = c ∧
      ∀ a < k, Memory.read ((k, c) :: rest) a = unlistedByte := by
  simp only [Memory.wfFrom, Bool.and_eq_true, decide_eq_true_eq] at h
  obtain ⟨⟨-, hc⟩, hrest⟩ := h
  refine ⟨hc, hrest, by simp [Memory.read], fun a ha => ?_⟩
  refine Memory.read_of_wfFrom (lo := k) ?_ ha
  simp [Memory.wfFrom, hc, hrest]

/-- Behind equal first entries, the rests read the same. -/
theorem read_rest_eq {k : Nat} {c : Byte} {rest₁ rest₂ : Memory} (h₁ : Memory.wfFrom (k + 1) rest₁ = true)
    (h₂ : Memory.wfFrom (k + 1) rest₂ = true)
    (hread : ∀ a, Memory.read ((k, c) :: rest₁) a = Memory.read ((k, c) :: rest₂) a) (a : Nat) :
    rest₁.read a = rest₂.read a := by
  by_cases ha : k = a
  · subst ha
    rw [Memory.read_of_wfFrom h₁ (Nat.lt_succ_self k), Memory.read_of_wfFrom h₂ (Nat.lt_succ_self k)]
  · simpa [Memory.read, ha] using hread a

/-- Memories in canonical form that read the same are equal: their first entries agree, since the lower of two different
first addresses would read differently. -/
theorem eq_of_wfFrom_of_read_eq {m₁ m₂ : Memory} {lo : Nat} (h₁ : m₁.wfFrom lo = true) (h₂ : m₂.wfFrom lo = true)
    (hread : ∀ a, m₁.read a = m₂.read a) : m₁ = m₂ := by
  induction m₁ generalizing m₂ lo with
  | nil =>
    cases m₂ with
    | nil => rfl
    | cons cell₂ rest₂ =>
      obtain ⟨k₂, c₂⟩ := cell₂
      obtain ⟨hc₂, -, hk₂, -⟩ := read_of_wfFrom_cons h₂
      exact absurd (hk₂.symm.trans (hread k₂).symm) hc₂
  | cons cell₁ rest₁ ih =>
    obtain ⟨k₁, c₁⟩ := cell₁
    obtain ⟨hc₁, hrest₁, hk₁, hbelow₁⟩ := read_of_wfFrom_cons h₁
    cases m₂ with
    | nil => exact absurd (hk₁.symm.trans (hread k₁)) hc₁
    | cons cell₂ rest₂ =>
      obtain ⟨k₂, c₂⟩ := cell₂
      obtain ⟨hc₂, hrest₂, hk₂, hbelow₂⟩ := read_of_wfFrom_cons h₂
      have hkey : k₁ = k₂ := by
        rcases Nat.lt_trichotomy k₁ k₂ with hlt | heq | hgt
        · exact absurd (hk₁.symm.trans ((hread k₁).trans (hbelow₂ k₁ hlt))) hc₁
        · exact heq
        · exact absurd (hk₂.symm.trans ((hread k₂).symm.trans (hbelow₁ k₂ hgt))) hc₂
      subst hkey
      obtain rfl : c₁ = c₂ := hk₁.symm.trans ((hread k₁).trans hk₂)
      rw [ih hrest₁ hrest₂ (read_rest_eq hrest₁ hrest₂ hread)]

/-- Settles O58: the canonical form is the one that starts at address 0. -/
theorem canonicalMemory : Obligations.CanonicalMemory :=
  fun _ _ h₁ h₂ hread => eq_of_wfFrom_of_read_eq h₁ h₂ hread

/-! ### Start-up -/

/-- The requirements of 70_reset_and_hazards.md R362, all of them met. -/
theorem check_eq_none_iff (i : StartInputs) :
    i.check = none ↔
      i.code.length % 4 = 0 ∧ 256 + i.code.length + i.data.length ≤ i.memSize ∧ i.memSize ≤ 2 ^ 31 ∧
        256 + i.code.length + i.data.length ≤ i.heReset.toNat + 1 ∧ i.heReset.toNat < i.memSize := by
  have hheap : i.heapStart = 256 + i.code.length + i.data.length := rfl
  unfold StartInputs.check
  split_ifs <;> simp <;> omega

theorem startUp_eq_error_iff (i : StartInputs) : (∃ why, startUp i = .error why) ↔ i.check ≠ none := by
  unfold startUp
  cases i.check with
  | none => simp
  | some why => simp

/-- Settles O13: start-up is refused where its check answers a requirement that is broken. -/
theorem startUpRefuses : Obligations.StartUpRefuses := by
  intro i
  rw [startUp_eq_error_iff, Ne, check_eq_none_iff]
  omega

theorem toNat_ofNat_of_le {n : Nat} (h : n ≤ 2 ^ 31) : (BitVec.ofNat 32 n).toNat = n := by
  rw [BitVec.toNat_ofNat]; omega

/-- The segment and stack registers of an accepted start-up hold their addresses without a wrap. -/
theorem startUp_segments {i : StartInputs} (h : i.check = none) :
    i.state.ds.toNat = 256 + i.code.length ∧ i.state.hs.toNat = 256 + i.code.length + i.data.length ∧
      i.state.sp.toNat = i.memSize := by
  obtain ⟨-, himage, hmem, -, -⟩ := (check_eq_none_iff i).mp h
  exact ⟨toNat_ofNat_of_le (n := 256 + i.code.length) (by omega),
    toNat_ofNat_of_le (n := 256 + i.code.length + i.data.length) (by omega), toNat_ofNat_of_le (by omega)⟩

/-- Settles O11: the answer of start-up is the state its inputs describe, and no address of it wraps. -/
theorem startUpRegisters : Obligations.StartUpRegisters := by
  intro i s hstart
  obtain ⟨hcheck, rfl⟩ := startUp_eq_ok_iff.mp hstart
  obtain ⟨hds, hhs, hsp⟩ := startUp_segments hcheck
  exact ⟨rfl, rfl, hds, hhs, rfl, hsp, rfl, rfl, rfl, rfl, rfl, rfl, rfl, rfl, rfl, rfl, rfl, rfl, rfl, rfl, rfl⟩

/-- Settles O12: what stands in memory after the code and then the data are written to the empty memory. -/
theorem startUpMemory : Obligations.StartUpMemory := by
  intro i s hstart a
  obtain ⟨-, rfl⟩ := startUp_eq_ok_iff.mp hstart
  change ((Memory.writeBytes [] 256 i.code).writeBytes (256 + i.code.length) i.data).read a = _
  rw [Memory.read_writeBytes, Memory.read_writeBytes, Memory.read_nil]
  by_cases hcode : 256 ≤ a ∧ a < 256 + i.code.length
  · rw [if_neg (by omega), if_pos hcode, if_pos hcode]
  · rw [if_neg hcode, if_neg hcode]; rfl

/-! ### The invariant at the start -/

theorem wf_startInputs_memory (i : StartInputs) : i.memory.wf = true :=
  Memory.wf_writeBytes _ _ (Memory.wf_writeBytes _ _ rfl)

theorem below_startInputs_memory {i : StartInputs} (h : 256 + i.code.length + i.data.length ≤ i.memSize) :
    i.memory.below i.memSize = true :=
  Memory.below_writeBytes (.inr h) (Memory.below_writeBytes (.inr (by omega)) rfl)

/-- Settles O14: the requirements of start-up are what the invariant asks for. -/
theorem startUpEstablishesInvariant : Obligations.StartUpEstablishesInvariant := by
  intro i s hstart
  obtain ⟨hcheck, rfl⟩ := startUp_eq_ok_iff.mp hstart
  obtain ⟨hds, hhs, hsp⟩ := startUp_segments hcheck
  obtain ⟨-, himage, hmem, -, hhe⟩ := (check_eq_none_iff i).mp hcheck
  refine ⟨wf_startInputs_memory i, below_startInputs_memory himage, ?_, ?_, ?_, hmem, ?_, ?_⟩
  · rw [hds]; omega
  · rw [hds, hhs]; omega
  · rw [hhs]; exact himage
  · rw [hsp]; exact hhe
  · exact hsp.le

/-- Settles O15: the reset state is written out, so its invariant is a fact about numerals. -/
theorem resetInvariant : Obligations.ResetInvariant := by
  refine ⟨rfl, rfl, ?_, ?_, ?_, ?_, ?_, ?_⟩ <;> decide

/-! ### A halted machine -/

/-- A step from a halted state changes nothing (60_exceptions.md R340). -/
theorem step_of_halted {s : State} (h : s.run = .halted) : step s = .next s := by
  simp only [step, h]

theorem run_zero (s : State) : Host.Core.run Sys2Proof.core 0 s = .next s := rfl

/-- A run whose first step answers a next state goes on from it. -/
theorem run_succ_of_step {s t : State} (k : Nat) (h : step s = .next t) :
    Host.Core.run Sys2Proof.core (k + 1) s = Host.Core.run Sys2Proof.core k t := by
  have hcore : Sys2Proof.core.step s = .next t := h
  simp only [Host.Core.run, hcore]

/-- Settles O8: by induction on the number of steps. -/
theorem haltedForever : Obligations.HaltedForever := by
  intro s k hhalt
  induction k with
  | zero => exact run_zero s
  | succ k ih => rw [run_succ_of_step k (step_of_halted hhalt), ih]

end Sys2Proof.Proofs
end

section
/-! SUPPORT. What every step keeps, form by form of `Effect`: DS, HS and the parameters, the bytes of the code segment,
the invariant of the machine (10_state.md section 4, 20_memory.md sections 3 and 5). -/

namespace Sys2Proof.Proofs

open Sys2Proof.Machine

/-! ### The segments and the parameters -/

/-- `t` has the DS, HS and parameters of `s`. -/
def SameConstants (s t : State) : Prop := t.ds = s.ds ∧ t.hs = s.hs ∧ t.params = s.params

theorem SameConstants.refl (s : State) : SameConstants s s := ⟨rfl, rfl, rfl⟩

theorem SameConstants.trans {s t u : State} (h : SameConstants s t) (h' : SameConstants t u) : SameConstants s u :=
  ⟨h'.1.trans h.1, h'.2.1.trans h.2.1, h'.2.2.trans h.2.2⟩

theorem sameConstants_putReg (s : State) (x : Reg) (v : Word) : SameConstants s (s.putReg x v) :=
  ⟨putReg_ds s x v, putReg_hs s x v, putReg_params s x v⟩

theorem sameConstants_afterFetch (s : State) : SameConstants s (afterFetch s) := ⟨rfl, rfl, rfl⟩

theorem sameConstants_takeInput (s : State) (p : Fin 8) (n : Nat) : SameConstants s (s.takeInput p n) :=
  ⟨readReg_takeInput s p n .ds, readReg_takeInput s p n .hs, takeInput_params s p n⟩

theorem sameConstants_giveOutput (s : State) (p : Fin 8) (bs : List Byte) : SameConstants s (s.giveOutput p bs) :=
  ⟨readReg_giveOutput s p bs .ds, readReg_giveOutput s p bs .hs, giveOutput_params s p bs⟩

theorem sameConstants_interrupt (n : Fin 64) (s : State) : SameConstants s (interrupt n s) := by
  obtain ⟨-, h⟩ | ⟨-, -, h⟩ := interrupt_cases n s <;> rw [h] <;> exact ⟨rfl, rfl, rfl⟩

theorem sameConstants_raiseFault (c : Cause) (s : State) : SameConstants s (raiseFault c s) :=
  SameConstants.trans (t := s.setErr (s.err ||| c.errMask)) ⟨rfl, rfl, rfl⟩ (sameConstants_interrupt _ _)

/-- The state in which HI, LO and ERR hold what the free value says of a division of -2^31 by -1, before its interrupt
(42_arithmetic.md R203, D18). -/
def dividedOpen (s : State) : State :=
  (((s.setHi (Config.divOverflow s.divUses).hi).setLo (Config.divOverflow s.divUses).lo).setErr
    (Config.divOverflow s.divUses).err).countDivUse

/-- All a division of -2^31 by -1 can do: leave that state, or enter an interrupt from it. -/
theorem divideOverflow_cases (s : State) :
    divideOverflow s = dividedOpen s ∨ ∃ n, divideOverflow s = interrupt n (dividedOpen s) := by
  unfold divideOverflow
  split
  next => exact .inl rfl
  next n _ => exact .inr ⟨n, rfl⟩

theorem sameConstants_divideOverflow (s : State) : SameConstants s (divideOverflow s) := by
  have hbase : SameConstants s (dividedOpen s) := ⟨rfl, rfl, rfl⟩
  obtain h | ⟨n, h⟩ := divideOverflow_cases s <;> rw [h]
  · exact hbase
  · exact hbase.trans (sameConstants_interrupt _ _)

theorem effect_sameConstants {i : Instr} {s t : State} (h : Effect i s t) : SameConstants s t := by
  cases h with
  | raise c => exact sameConstants_raiseFault c s
  | raiseWrapped c x v => exact (sameConstants_putReg s x v).trans (sameConstants_raiseFault _ _)
  | put x v => exact sameConstants_putReg s x v
  | same => exact .refl _
  | halt | jump | compare | hiLo | store | push | call | ret => exact ⟨rfl, rfl, rfl⟩
  | divideOpen => exact sameConstants_divideOverflow s
  | pop x v => exact (sameConstants_putReg s x v).trans ⟨rfl, rfl, rfl⟩
  | int n => exact sameConstants_interrupt n s
  | input p y a n bs v =>
    have hstored : SameConstants s ((s.takeInput p n).storeBytes a bs) :=
      (sameConstants_takeInput s p n).trans ⟨rfl, rfl, rfl⟩
    exact hstored.trans (sameConstants_putReg _ y v)
  | output p y bs v => exact (sameConstants_giveOutput s p bs).trans (sameConstants_putReg _ y v)

theorem step_sameConstants {s t : State} (h : step s = .next t) : SameConstants s t := by
  obtain rfl | rfl | ⟨i, heffect⟩ := step_effect h
  · exact .refl _
  · exact ⟨rfl, rfl, rfl⟩
  · exact (sameConstants_afterFetch s).trans (effect_sameConstants heffect)

/-- Settles O17: no form of effect writes DS, HS or a parameter. -/
theorem stepKeepsConstants : Obligations.StepKeepsConstants := fun _ _ h => step_sameConstants h

/-! ### Debug mode -/

theorem run_succ_of_fault {s : State} {why : Fault} (k : Nat) (h : step s = .fault why) :
    Host.Core.run Sys2Proof.core (k + 1) s = .fault why := by
  have hcore : Sys2Proof.core.step s = .fault why := h
  simp only [Host.Core.run, hcore]

theorem run_succ_of_refused {s : State} {why : Refusal} (k : Nat) (h : step s = .refused why) :
    Host.Core.run Sys2Proof.core (k + 1) s = .refused why := by
  have hcore : Sys2Proof.core.step s = .refused why := h
  simp only [Host.Core.run, hcore]

/-- A turn in which the machine steps goes on as a run that is one step longer, if the later turns do. -/
theorem hostTicks_cons_eq_run {s : State} {signal : Bool} {later : List Bool} {k : Nat}
    (htick : hostTick signal s = step s)
    (hlater : ∀ t, step s = .next t → hostTicks later t = Host.Core.run Sys2Proof.core k t) :
    hostTicks (signal :: later) s = Host.Core.run Sys2Proof.core (k + 1) s := by
  cases hstep : step s with
  | next t =>
    have hticks : hostTicks (signal :: later) s = hostTicks later t := by simp only [hostTicks, htick, hstep]
    exact (hticks.trans (hlater t hstep)).trans (run_succ_of_step k hstep).symm
  | fault why =>
    have hticks : hostTicks (signal :: later) s = .fault why := by simp only [hostTicks, htick, hstep]
    exact hticks.trans (run_succ_of_fault k hstep).symm
  | refused why =>
    have hticks : hostTicks (signal :: later) s = .refused why := by simp only [hostTicks, htick, hstep]
    exact hticks.trans (run_succ_of_refused k hstep).symm

theorem mode_of_step {s t : State} (h : step s = .next t) : t.params.mode = s.params.mode := by
  obtain ⟨-, -, hparams⟩ := step_sameConstants h
  rw [hparams]

theorem hostTick_normal {s : State} (h : s.params.mode = .normal) (signal : Bool) : hostTick signal s = step s := by
  simp only [hostTick, h]

theorem hostTick_debug {s : State} (h : s.params.mode = .debug) : hostTick true s = step s := by
  simp only [hostTick, h, if_true]

theorem hostTicks_normal (signals : List Bool) (s : State) (h : s.params.mode = .normal) :
    hostTicks signals s = Host.Core.run Sys2Proof.core signals.length s := by
  induction signals generalizing s with
  | nil => rfl
  | cons signal later ih =>
    exact hostTicks_cons_eq_run (hostTick_normal h signal) fun t hstep => ih t ((mode_of_step hstep).trans h)

theorem hostTicks_debug (signals : List Bool) (s : State) (h : s.params.mode = .debug) :
    hostTicks signals s = Host.Core.run Sys2Proof.core (signals.count true) s := by
  induction signals generalizing s with
  | nil => rfl
  | cons signal later ih =>
    cases signal with
    | true =>
      rw [List.count_cons_self]
      exact hostTicks_cons_eq_run (hostTick_debug h) fun t hstep => ih t ((mode_of_step hstep).trans h)
    | false =>
      have hstill : hostTick false s = .next s := by simp [hostTick, h]
      simpa [hostTicks, hstill] using ih s h

/-- Settles O9: by induction on the signals, the mode being the same after every step. -/
theorem sameStatesInDebugMode : Obligations.SameStatesInDebugMode :=
  fun s signals => ⟨hostTicks_normal signals s, hostTicks_debug signals s⟩

/-! ### The code segment -/

/-- Every byte of the code segment of `s` reads in `t` as it did in `s` (20_memory.md R85). -/
def KeepsCode (s t : State) : Prop := ∀ a : Nat, 256 ≤ a → a < s.ds.toNat → t.mem.read a = s.mem.read a

theorem KeepsCode.of_mem_eq {s t : State} (h : t.mem = s.mem) : KeepsCode s t := fun a _ _ => by rw [h]

/-- What keeps the code, and keeps it from a state with the same code segment, keeps the code. -/
theorem KeepsCode.trans {s t u : State} (hds : t.ds = s.ds) (h : KeepsCode s t) (h' : KeepsCode t u) : KeepsCode s u :=
  fun a hlo hhi => (h' a hlo (by rw [hds]; exact hhi)).trans (h a hlo hhi)

/-- Bytes stored outside the code segment leave it as it was. -/
theorem keepsCode_of_memoryAfter {s t : State} {a : Nat} {bs : List Byte} (h : MemoryAfter s t a bs)
    (hfree : Unprotected s a bs.length) : KeepsCode s t := by
  intro b hlo hhi
  rw [h b, if_neg]
  exact fun hb => hfree b hb.1 hb.2 ⟨hlo, hhi⟩

theorem unprotected_mono {s : State} {a m n : Nat} (hle : m ≤ n) (h : Unprotected s a n) : Unprotected s a m :=
  fun b hlo hhi => h b hlo (by omega)

theorem keepsCode_storeBytes {s : State} {a : Nat} {bs : List Byte} (hfree : Unprotected s a bs.length) :
    KeepsCode s (s.storeBytes a bs) := keepsCode_of_memoryAfter (storeBytes_becomes s a bs).2.1 hfree

theorem keepsCode_pushWord {s : State} (w : Word) (h : CanPush s) : KeepsCode s (s.pushWord w) :=
  keepsCode_of_memoryAfter (pushWord_becomes w).2.1 h.2.2

theorem keepsCode_interrupt (n : Fin 64) (s : State) : KeepsCode s (interrupt n s) := by
  obtain ⟨-, h⟩ | ⟨-, hpush, h⟩ := interrupt_cases n s <;> rw [h]
  · exact .of_mem_eq rfl
  · exact keepsCode_pushWord s.pc hpush

theorem keepsCode_raiseFault (c : Cause) (s : State) : KeepsCode s (raiseFault c s) :=
  keepsCode_interrupt c.number (s.setErr (s.err ||| c.errMask))

theorem keepsCode_divideOverflow (s : State) : KeepsCode s (divideOverflow s) := by
  obtain h | ⟨n, h⟩ := divideOverflow_cases s <;> rw [h]
  · exact .of_mem_eq rfl
  · exact keepsCode_interrupt n (dividedOpen s)

theorem effect_keepsCode {i : Instr} {s t : State} (h : Effect i s t) : KeepsCode s t := by
  cases h with
  | raise c => exact keepsCode_raiseFault c s
  | raiseWrapped c x v =>
    exact .trans (putReg_ds s x v) (.of_mem_eq (putReg_mem s x v)) (keepsCode_raiseFault c _)
  | put x v => exact .of_mem_eq (putReg_mem s x v)
  | same | halt | jump | compare | hiLo | ret => exact .of_mem_eq rfl
  | divideOpen => exact keepsCode_divideOverflow s
  | store a bs hcheck => exact keepsCode_storeBytes (writeCheck_eq_none.mp hcheck).2
  | push w hcheck | call w v hcheck => exact keepsCode_pushWord w (pushCheck_eq_none.mp hcheck)
  | pop x v => exact .of_mem_eq (putReg_mem s x v)
  | int n => exact keepsCode_interrupt n s
  | input p y a n bs v _ _ _ _ _ hcheck hlen =>
    have hds : (s.takeInput p n).ds = s.ds := (sameConstants_takeInput s p n).1
    have hfree : Unprotected (s.takeInput p n) a bs.length := by
      unfold Unprotected
      rw [hds]
      exact unprotected_mono hlen (writeCheck_eq_none.mp hcheck).2
    have hstored : KeepsCode s ((s.takeInput p n).storeBytes a bs) :=
      .trans hds (.of_mem_eq (takeInput_mem s p n)) (keepsCode_storeBytes hfree)
    exact .trans (t := (s.takeInput p n).storeBytes a bs) hds hstored (.of_mem_eq (putReg_mem _ y v))
  | output p y bs v => exact .of_mem_eq ((putReg_mem _ y v).trans (giveOutput_mem s p bs))

/-- Settles O18: every form of effect that stores bytes has passed a check that none lies in the code segment. -/
theorem stepKeepsCode : Obligations.StepKeepsCode := by
  intro s t h
  obtain rfl | rfl | ⟨i, heffect⟩ := step_effect h
  · exact fun _ _ _ => rfl
  · exact fun _ _ _ => rfl
  · exact effect_keepsCode (s := afterFetch s) heffect

/-! ### The invariant -/

/-- The invariant speaks only of the memory, DS, HS, HE, SP and the parameters. -/
theorem inv_congr {s t : State} (hc : SameConstants s t) (hmem : t.mem = s.mem) (hhe : t.he = s.he) (hsp : t.sp = s.sp)
    (h : s.Inv) : t.Inv := by
  obtain ⟨hds, hhs, hparams⟩ := hc
  unfold State.Inv
  rw [hds, hhs, hparams, hmem, hhe, hsp]
  exact h

/-- An accepted write of a destination keeps HE below SP and SP within the memory (10_state.md R37). -/
theorem inv_putReg {s : State} {x : Reg} {v : Word} (ha : Accepts s x v) (h : s.Inv) : (s.putReg x v).Inv := by
  obtain ⟨-, hhe, hsp⟩ := ha
  obtain ⟨hwf, hbelow, hds, hhs, hmem, hmax, hlt, hle⟩ := id h
  cases x
  case he => exact ⟨hwf, hbelow, hds, hhs, hmem, hmax, hhe rfl, hle⟩
  case sp => exact ⟨hwf, hbelow, hds, hhs, hmem, hmax, (hsp rfl).2, (hsp rfl).1⟩
  all_goals exact h

/-- A store that exists keeps the memory canonical and within its size. -/
theorem inv_storeBytes {s : State} {a : Nat} {bs : List Byte}
    (hexists : bs.length ≠ 0 → a + bs.length ≤ s.params.memSize) (h : s.Inv) : (s.storeBytes a bs).Inv := by
  obtain ⟨hwf, hbelow, hrest⟩ := h
  refine ⟨Memory.wf_writeBytes a bs hwf, Memory.below_writeBytes ?_ hbelow, hrest⟩
  by_cases hnil : bs = []
  · exact .inl hnil
  · exact .inr (hexists (by simpa using hnil))

/-- A new SP between HE and the end of the memory keeps the invariant. -/
theorem inv_setSp {s : State} {v : Word} (hlo : s.he.toNat < v.toNat) (hhi : v.toNat ≤ s.params.memSize) (h : s.Inv) :
    (s.setSp v).Inv := by
  obtain ⟨hwf, hbelow, hds, hhs, hmem, hmax, -, -⟩ := h
  exact ⟨hwf, hbelow, hds, hhs, hmem, hmax, hlo, hhi⟩

theorem toNat_sp_sub_four {s : State} : (BitVec.ofNat 32 (s.sp.toNat - 4)).toNat = s.sp.toNat - 4 := by
  have := s.sp.isLt
  rw [BitVec.toNat_ofNat]; omega

theorem inv_pushWord {s : State} (w : Word) (hpush : CanPush s) (h : s.Inv) : (s.pushWord w).Inv := by
  obtain ⟨hroom, hsp, -⟩ := hpush
  refine inv_setSp (s := s.storeBytes (s.sp.toNat - 4) (bytesOfWord w)) ?_ ?_ (inv_storeBytes (fun _ => ?_) h)
  · rw [toNat_sp_sub_four]
    change s.he.toNat < _
    omega
  · rw [toNat_sp_sub_four]
    change _ ≤ s.params.memSize
    omega
  · rw [bytesOfWord_length]; omega

/-- The four bytes at SP exist, so SP plus 4 is no more than the memory size. -/
theorem inv_dropWord {s : State} (hpop : popCheck s = none) (h : s.Inv) : s.dropWord.Inv := by
  have htop : s.sp.toNat + 4 ≤ s.params.memSize := readCheck_eq_none.mp hpop (by omega)
  obtain ⟨-, -, -, -, -, hmax, hlt, -⟩ := id h
  have hnum : (BitVec.ofNat 32 (s.sp.toNat + 4)).toNat = s.sp.toNat + 4 := toNat_ofNat_of_le (by omega)
  refine inv_setSp ?_ ?_ h
  · rw [hnum]; omega
  · rw [hnum]; exact htop

theorem inv_interrupt (n : Fin 64) {s : State} (h : s.Inv) : (interrupt n s).Inv := by
  obtain ⟨-, heq⟩ | ⟨-, hpush, heq⟩ := interrupt_cases n s <;> rw [heq]
  · exact inv_congr ⟨rfl, rfl, rfl⟩ rfl rfl rfl h
  · exact inv_congr (s := s.pushWord s.pc) ⟨rfl, rfl, rfl⟩ rfl rfl rfl (inv_pushWord s.pc hpush h)

theorem inv_raiseFault (c : Cause) {s : State} (h : s.Inv) : (raiseFault c s).Inv :=
  inv_interrupt c.number (inv_congr (s := s) ⟨rfl, rfl, rfl⟩ rfl rfl rfl h)

theorem inv_divideOverflow {s : State} (h : s.Inv) : (divideOverflow s).Inv := by
  have hbase : (dividedOpen s).Inv := inv_congr (s := s) ⟨rfl, rfl, rfl⟩ rfl rfl rfl h
  obtain heq | ⟨n, heq⟩ := divideOverflow_cases s <;> rw [heq]
  · exact hbase
  · exact inv_interrupt n hbase

/-- A destination is written only if it is not write-protected. -/
theorem readReg_putReg_of_ne {s : State} {x r : Reg} (v : Word) (h : r = x → r.writeProtected = true) :
    (s.putReg x v).readReg r = s.readReg r := by
  rw [readReg_putReg, if_neg]
  rintro ⟨rfl, hfree⟩
  rw [h rfl] at hfree
  cases hfree

theorem sp_putReg_of_ne {s : State} {x : Reg} (v : Word) (hsp : x ≠ .sp) : (s.putReg x v).sp = s.sp :=
  readReg_putReg_of_ne (r := .sp) v fun h => absurd h.symm hsp

/-- A register other than HE and SP can be written without touching the invariant. -/
theorem inv_putReg_of_ne {s : State} {x : Reg} (v : Word) (hhe : x ≠ .he) (hsp : x ≠ .sp) (h : s.Inv) :
    (s.putReg x v).Inv :=
  inv_congr (sameConstants_putReg s x v) (putReg_mem s x v)
    (readReg_putReg_of_ne (r := .he) v fun hx => absurd hx.symm hhe) (sp_putReg_of_ne v hsp) h

theorem inv_takeInput {s : State} (p : Fin 8) (n : Nat) (h : s.Inv) : (s.takeInput p n).Inv :=
  inv_congr (sameConstants_takeInput s p n) (takeInput_mem s p n) (readReg_takeInput s p n .he)
    (readReg_takeInput s p n .sp) h

theorem inv_giveOutput {s : State} (p : Fin 8) (bs : List Byte) (h : s.Inv) : (s.giveOutput p bs).Inv :=
  inv_congr (sameConstants_giveOutput s p bs) (giveOutput_mem s p bs) (readReg_giveOutput s p bs .he)
    (readReg_giveOutput s p bs .sp) h

theorem effect_inv {i : Instr} {s t : State} (heffect : Effect i s t) (h : s.Inv) : t.Inv := by
  cases heffect with
  | raise c => exact inv_raiseFault c h
  | raiseWrapped c x v _ hcheck => exact inv_raiseFault c (inv_putReg (destCheck_eq_none.mp hcheck) h)
  | put x v _ hcheck => exact inv_putReg (destCheck_eq_none.mp hcheck) h
  | same => exact h
  | halt | jump | compare | hiLo => exact inv_congr (s := s) ⟨rfl, rfl, rfl⟩ rfl rfl rfl h
  | divideOpen => exact inv_divideOverflow h
  | store a bs hcheck => exact inv_storeBytes (writeCheck_eq_none.mp hcheck).1 h
  | push w hcheck => exact inv_pushWord w (pushCheck_eq_none.mp hcheck) h
  | call w v hcheck =>
    exact inv_congr (s := s.pushWord w) ⟨rfl, rfl, rfl⟩ rfl rfl rfl (inv_pushWord w (pushCheck_eq_none.mp hcheck) h)
  | pop x v _ hsp hdest hpop =>
    refine inv_dropWord ?_ (inv_putReg (destCheck_eq_none.mp hdest) h)
    rw [popCheck, readCheck_eq_none, sp_putReg_of_ne v hsp, putReg_params]
    exact readCheck_eq_none.mp hpop
  | ret v hpop => exact inv_congr (s := s.dropWord) ⟨rfl, rfl, rfl⟩ rfl rfl rfl (inv_dropWord hpop h)
  | int n => exact inv_interrupt n h
  | input p y a n bs v _ _ hhe hsp _ hcheck hlen =>
    refine inv_putReg_of_ne v hhe hsp (inv_storeBytes (fun hne => ?_) (inv_takeInput p n h))
    have hrange := (writeCheck_eq_none.mp hcheck).1 (by omega)
    rw [takeInput_params]; omega
  | output p y bs v _ _ hhe hsp => exact inv_putReg_of_ne v hhe hsp (inv_giveOutput p bs h)

/-- Settles O16: the fetch writes IR and PC only, and every form of effect keeps the invariant. -/
theorem stepKeepsInvariant : Obligations.StepKeepsInvariant := by
  intro s t h hstep
  obtain rfl | rfl | ⟨i, heffect⟩ := step_effect hstep
  · exact h
  · exact inv_congr (s := s) ⟨rfl, rfl, rfl⟩ rfl rfl rfl h
  · exact effect_inv heffect (inv_congr (s := s) ⟨rfl, rfl, rfl⟩ rfl rfl rfl h)

end Sys2Proof.Proofs
end

section
/-! SUPPORT. Frames put together, the checks of an instruction one after the other, the stack, interrupts and the
subroutine instructions (41_load_store.md section 5, 47_subroutine.md, 48_system.md, 60_exceptions.md). -/

namespace Sys2Proof.Proofs

open Sys2Proof.Machine

/-! ### Frames, one after the other -/

theorem memoryAfter_nil_iff {s t : State} : MemoryAfter s t 0 [] ↔ ∀ b, t.mem.read b = s.mem.read b := by
  refine forall_congr' fun b => ?_
  rw [if_neg (by simp)]

theorem restUnchanged_trans {s t u : State} (h : RestUnchanged s t) (h' : RestUnchanged t u) : RestUnchanged s u := by
  obtain ⟨hrun, hparams, hin, hout, hdiv⟩ := h
  obtain ⟨hrun', hparams', hin', hout', hdiv'⟩ := h'
  exact ⟨hrun'.trans hrun, hparams'.trans hparams, hin'.trans hin, hout'.trans hout, hdiv'.trans hdiv⟩

/-- The later changes of registers come first in the list. -/
theorem registersAfter_trans {s t u : State} {regs regs' : List (Reg × Word)} (h : RegistersAfter s t regs)
    (h' : RegistersAfter t u regs') : RegistersAfter s u (regs' ++ regs) := by
  intro r
  rw [h' r, h r, List.lookup_append]
  cases regs'.lookup r <;> rfl

/-- Registers change after memory and registers have. -/
theorem becomes_trans_registers {s t u : State} {regs regs' : List (Reg × Word)} {a : Nat} {bs : List Byte}
    (h : Becomes s t regs a bs) (h' : Becomes t u regs' 0 []) : Becomes s u (regs' ++ regs) a bs := by
  obtain ⟨hregs, hmem, hrest⟩ := h
  obtain ⟨hregs', hmem', hrest'⟩ := h'
  exact ⟨registersAfter_trans hregs hregs', fun b => (memoryAfter_nil_iff.mp hmem' b).trans (hmem b),
    restUnchanged_trans hrest hrest'⟩

/-- Memory and registers change after registers have. -/
theorem becomes_registers_trans {s t u : State} {regs regs' : List (Reg × Word)} {a : Nat} {bs : List Byte}
    (h : Becomes s t regs 0 []) (h' : Becomes t u regs' a bs) : Becomes s u (regs' ++ regs) a bs := by
  obtain ⟨hregs, hmem, hrest⟩ := h
  obtain ⟨hregs', hmem', hrest'⟩ := h'
  refine ⟨registersAfter_trans hregs hregs', fun b => ?_, restUnchanged_trans hrest hrest'⟩
  rw [hmem' b, memoryAfter_nil_iff.mp hmem b]

/-- A frame may be given by any list that says the same of every register. -/
theorem becomes_congr_registers {s t : State} {regs regs' : List (Reg × Word)} {a : Nat} {bs : List Byte}
    (hsame : ∀ r, (regs'.lookup r).getD (s.readReg r) = (regs.lookup r).getD (s.readReg r))
    (h : Becomes s t regs a bs) : Becomes s t regs' a bs :=
  ⟨fun r => (h.1 r).trans (hsame r).symm, h.2⟩

theorem setSp_becomes (s : State) (v : Word) : Becomes s (s.setSp v) [(.sp, v)] 0 [] :=
  ⟨fun r => by simp, memoryAfter_nil_iff.mpr fun _ => rfl, rfl, rfl, rfl, rfl, rfl⟩

theorem setErr_becomes (s : State) (v : Word) : Becomes s (s.setErr v) [(.err, v)] 0 [] :=
  ⟨fun r => by simp, memoryAfter_nil_iff.mpr fun _ => rfl, rfl, rfl, rfl, rfl, rfl⟩

/-! ### Checks, one after the other -/

theorem complete_nil (s t : State) : complete s [] t = .next t := rfl

theorem complete_cons_of_none {s t : State} {c : Option Cause} {rest : List (Option Cause)} (h : c = none) :
    complete s (c :: rest) t = complete s rest t := by subst h; rfl

theorem complete_cons_of_some {s t : State} {c : Option Cause} {rest : List (Option Cause)} {cause : Cause}
    (h : c = some cause) : complete s (c :: rest) t = .next (raiseFault cause s) := by subst h; rfl

/-! ### The checks of the stack -/

theorem pushCheck_stackOverflow {s : State} (h : s.sp.toNat ≤ s.he.toNat + 4) :
    pushCheck s = some .stackOverflow := if_pos h

theorem pushCheck_invalidAddress {s : State} (hroom : s.he.toNat + 4 < s.sp.toNat)
    (h : s.params.memSize < s.sp.toNat) : pushCheck s = some .invalidAddress := by
  rw [pushCheck_of_lt hroom]
  exact writeCheck_invalidAddress (by omega) (by omega)

theorem pushCheck_accessViolation {s : State} (hroom : s.he.toNat + 4 < s.sp.toNat)
    (hexists : s.sp.toNat ≤ s.params.memSize) (h : ¬Unprotected s (s.sp.toNat - 4) 4) :
    pushCheck s = some .accessViolation := by
  rw [pushCheck_of_lt hroom]
  exact writeCheck_accessViolation (by omega) h

theorem popCheck_eq_none_iff {s : State} : popCheck s = none ↔ s.sp.toNat + 4 ≤ s.params.memSize := by
  rw [popCheck, readCheck_eq_none]; omega

theorem popCheck_invalidAddress {s : State} (h : s.params.memSize < s.sp.toNat + 4) :
    popCheck s = some .invalidAddress := readCheck_eq_some.mpr ⟨⟨by omega, h⟩, rfl⟩

theorem dropWord_becomes (s : State) :
    Becomes s s.dropWord [(.sp, BitVec.ofNat 32 (s.sp.toNat + 4))] 0 [] := setSp_becomes s _

/-- A pushed word stands where SP then points, with room above it for the pop that takes it back. -/
theorem sp_of_pushed {s t : State} (hpush : CanPush s)
    (hsp : t.readReg .sp = BitVec.ofNat 32 (s.sp.toNat - 4)) :
    t.sp.toNat = s.sp.toNat - 4 ∧ t.sp.toNat + 4 = s.sp.toNat := by
  have hnum : t.sp.toNat = s.sp.toNat - 4 := (congrArg BitVec.toNat hsp).trans toNat_sp_sub_four
  obtain ⟨hroom, -, -⟩ := hpush
  exact ⟨hnum, by omega⟩

/-! ### PUSH and POP -/

theorem exec_push_eq (x : Reg) (s : State) :
    exec (.push x) s = complete s [pushCheck s] (s.pushWord (s.readReg x)) := rfl

theorem exec_push_of_canPush {s : State} (x : Reg) (h : CanPush s) :
    exec (.push x) s = .next (s.pushWord (s.readReg x)) := by
  rw [exec_push_eq, complete_cons_of_none (pushCheck_eq_none.mpr h), complete_nil]

theorem exec_push_of_fault {s : State} (x : Reg) {c : Cause} (h : pushCheck s = some c) :
    exec (.push x) s = .next (raiseFault c s) := by rw [exec_push_eq, complete_cons_of_some h]

/-- Settles O32: the one check of PUSH, in each of its four cases. -/
theorem push : Obligations.Push := by
  refine ⟨encodedR00_of_decodeOpcode decodeOpcode_push, fun s x => ⟨fun hpush => ?_, fun hover => ?_,
    fun hroom hout => ?_, fun hroom hexists hcode => ?_⟩⟩
  · exact ⟨_, exec_push_of_canPush x hpush, pushWord_becomes (s.readReg x)⟩
  · exact exec_push_of_fault x (pushCheck_stackOverflow hover)
  · exact exec_push_of_fault x (pushCheck_invalidAddress hroom hout)
  · exact exec_push_of_fault x (pushCheck_accessViolation hroom hexists hcode)

theorem exec_pop_eq {s : State} {x : Reg} {w : Word} (hx : x ≠ .sp) (hw : s.mem.readWord s.sp.toNat = w) :
    exec (.pop x) s = complete s [popCheck s, destCheck s x w] (s.putReg x w).dropWord := by
  subst hw
  exact if_neg hx

/-- The registers POP changes: its destination, and SP (41_load_store.md R168). -/
theorem putReg_dropWord_becomes {s : State} {x : Reg} (hx : x ≠ .sp) (v : Word) :
    Becomes s (s.putReg x v).dropWord (written x v ++ [(.sp, BitVec.ofNat 32 (s.sp.toNat + 4))]) 0 [] := by
  have h := becomes_trans_registers (putReg_becomes s x v) (dropWord_becomes (s.putReg x v))
  rw [sp_putReg_of_ne v hx] at h
  refine becomes_congr_registers (fun r => ?_) h
  rw [List.lookup_append, List.lookup_append]
  by_cases hr : r = .sp
  · subst hr
    have hnone : (written x v).lookup .sp = none := by
      unfold written; split
      · rfl
      · simp [List.lookup, beq_eq_false_iff_ne.mpr (Ne.symm hx)]
    simp [hnone]
  · simp [List.lookup, beq_eq_false_iff_ne.mpr hr]

theorem exec_pop_of_accepts {s : State} {x : Reg} {w : Word} (hx : x ≠ .sp) (hw : s.mem.readWord s.sp.toNat = w)
    (hexists : s.sp.toNat + 4 ≤ s.params.memSize) (ha : Accepts s x w) :
    exec (.pop x) s = .next (s.putReg x w).dropWord := by
  rw [exec_pop_eq hx hw, complete_cons_of_none (popCheck_eq_none_iff.mpr hexists),
    complete_cons_of_none (destCheck_eq_none.mpr ha), complete_nil]

/-- Settles O33: the checks of POP in their order. -/
theorem popWord : Obligations.PopWord := by
  refine ⟨encodedR00_of_decodeOpcode decodeOpcode_pop, fun s x hx => ⟨fun hexists _ ha => ?_, fun hexists c hr => ?_,
    fun hempty => ?_⟩⟩
  · exact ⟨_, exec_pop_of_accepts hx rfl hexists ha, putReg_dropWord_becomes hx _⟩
  · rw [exec_pop_eq hx rfl, complete_cons_of_none (popCheck_eq_none_iff.mpr hexists),
      complete_cons_of_some (destCheck_eq_some.mpr hr)]
  · rw [exec_pop_eq hx rfl, complete_cons_of_some (popCheck_invalidAddress hempty)]

/-- Settles O34: the pop finds the pushed word at the SP that the push left, and puts SP back. -/
theorem pushThenPop : Obligations.PushThenPop := by
  intro s x y hpush hy
  have hpushed := pushWord_becomes (s := s) (s.readReg x)
  refine ⟨_, exec_push_of_canPush x hpush, fun ha => ?_⟩
  generalize s.pushWord (s.readReg x) = t at hpushed ha
  obtain ⟨hregs, hmem, -, hparams, -⟩ := id hpushed
  obtain ⟨hlow, hback⟩ := sp_of_pushed hpush (hregs .sp)
  have htop : t.mem.readWord t.sp.toNat = s.readReg x := by rw [hlow]; exact readWord_memoryAfter hmem
  refine ⟨_, exec_pop_of_accepts hy htop ?_ ha, ?_⟩
  · rw [hback, hparams]; exact hpush.2.1
  · have h := becomes_trans_registers hpushed (putReg_dropWord_becomes hy (s.readReg x))
    rw [hback, BitVec.ofNat_toNat, BitVec.setWidth_eq] at h
    refine becomes_congr_registers (fun r => ?_) h
    rw [List.append_assoc, List.lookup_append]
    cases (written y (s.readReg x)).lookup r with
    | some v => rfl
    | none => by_cases hr : r = .sp <;> simp [hr, State.readReg]

/-! ### Interrupts -/

/-- Settles O22: the two tables of causes. -/
theorem causeTable : Obligations.CauseTable := by
  unfold Obligations.CauseTable
  decide

/-- PC is pushed and set to the handler: SP falls by 4 (60_exceptions.md R322). -/
theorem pushWord_setPc_becomes (s : State) (w v : Word) :
    Becomes s ((s.pushWord w).setPc v) [(.pc, v), (.sp, BitVec.ofNat 32 (s.sp.toNat - 4))] (s.sp.toNat - 4)
      (bytesOfWord w) := becomes_trans_registers (pushWord_becomes w) (setPc_becomes _ v)

theorem interrupt_becomes {n : Fin 64} {s : State} (hentry : s.mem.readWord (4 * n.val) ≠ 0) (hpush : CanPush s) :
    Becomes s (interrupt n s) [(.sp, BitVec.ofNat 32 (s.sp.toNat - 4)), (.pc, s.mem.readWord (4 * n.val))]
      (s.sp.toNat - 4) (bytesOfWord s.pc) := by
  obtain ⟨hhalt, -⟩ | ⟨-, -, h⟩ := interrupt_cases n s
  · exact absurd hhalt (by rintro (h0 | h0); exacts [hentry h0, h0 hpush])
  · rw [h]
    exact becomes_congr_registers (fun r => by cases r <;> rfl) (pushWord_setPc_becomes s s.pc (tableEntry s n))

theorem interrupt_eq_halt {n : Fin 64} {s : State} (hno : s.mem.readWord (4 * n.val) = 0 ∨ ¬CanPush s) :
    interrupt n s = s.halt := by
  obtain ⟨-, h⟩ | ⟨hentry, hpush, -⟩ := interrupt_cases n s
  · exact h
  · exact absurd hno (by rintro (h0 | h0); exacts [hentry h0, h0 hpush])

/-- Settles O23: the two things an interrupt can do. -/
theorem interruptEntry : Obligations.InterruptEntry :=
  fun _ _ => ⟨interrupt_becomes, fun h => interrupt_eq_halt (.inl h), fun h => interrupt_eq_halt (.inr h)⟩

theorem raiseFault_becomes {c : Cause} {s : State} (hentry : s.mem.readWord (4 * c.number.val) ≠ 0)
    (hpush : CanPush s) :
    Becomes s (raiseFault c s)
      [(.err, s.err ||| c.errMask), (.sp, BitVec.ofNat 32 (s.sp.toNat - 4)), (.pc, s.mem.readWord (4 * c.number.val))]
      (s.sp.toNat - 4) (bytesOfWord s.pc) := by
  have hentered := interrupt_becomes (s := s.setErr (s.err ||| c.errMask)) hentry hpush
  exact becomes_congr_registers (fun r => by cases r <;> rfl)
    (becomes_registers_trans (setErr_becomes s (s.err ||| c.errMask)) hentered)

/-- Settles O24: a fault is an interrupt from the state with the ERR bit of its cause set. -/
theorem faultEntry : Obligations.FaultEntry :=
  fun c s => ⟨raiseFault_becomes, fun hno => interrupt_eq_halt (s := s.setErr (s.err ||| c.errMask)) hno⟩

/-! ### RET -/

theorem exec_ret_eq (s : State) :
    exec .ret s = complete s [popCheck s, targetCheck s s.topWord.toNat] (s.dropWord.setPc s.topWord) := rfl

theorem exec_ret_of_inCode {s : State} {w : Word} (hw : s.mem.readWord s.sp.toNat = w)
    (hexists : s.sp.toNat + 4 ≤ s.params.memSize) (hcode : InCode s w.toNat) :
    exec .ret s = .next (s.dropWord.setPc w) := by
  have htop : s.topWord = w := hw
  rw [exec_ret_eq, htop, complete_cons_of_none (popCheck_eq_none_iff.mpr hexists),
    complete_cons_of_none (targetCheck_eq_none.mpr hcode), complete_nil]

theorem dropWord_setPc_becomes (s : State) (w : Word) :
    Becomes s (s.dropWord.setPc w) [(.pc, w), (.sp, BitVec.ofNat 32 (s.sp.toNat + 4))] 0 [] :=
  becomes_trans_registers (dropWord_becomes s) (setPc_becomes _ w)

/-- RET takes back what an entry has pushed: PC and SP are as before it, the other registers as the entry left them. -/
theorem exec_ret_after_push {s t : State} {regs : List (Reg × Word)} (hpush : CanPush s)
    (hcode : InCode s s.pc.toNat) (h : Becomes s t regs (s.sp.toNat - 4) (bytesOfWord s.pc))
    (hsp : regs.lookup .sp = some (BitVec.ofNat 32 (s.sp.toNat - 4))) (hds : regs.lookup .ds = none) :
    ∃ u, exec .ret t = .next u ∧
      Becomes s u ([(.pc, s.pc), (.sp, s.sp)] ++ regs) (s.sp.toNat - 4) (bytesOfWord s.pc) := by
  obtain ⟨hregs, hmem, -, hparams, -⟩ := id h
  have hlow : t.readReg .sp = BitVec.ofNat 32 (s.sp.toNat - 4) := by rw [hregs .sp, hsp]; rfl
  have hseg : t.ds = s.ds := by
    have hread := hregs .ds
    rwa [hds] at hread
  obtain ⟨hnum, hback⟩ := sp_of_pushed hpush hlow
  have htop : t.mem.readWord t.sp.toNat = s.pc := by rw [hnum]; exact readWord_memoryAfter hmem
  have hexists : t.sp.toNat + 4 ≤ t.params.memSize := by rw [hback, hparams]; exact hpush.2.1
  refine ⟨_, exec_ret_of_inCode htop hexists (by unfold InCode; rw [hseg]; exact hcode), ?_⟩
  have hreturned := becomes_trans_registers h (dropWord_setPc_becomes t s.pc)
  rwa [hback, BitVec.ofNat_toNat, BitVec.setWidth_eq] at hreturned

/-- Settles O25: RET after the entry of an interrupt, and after that of a fault. -/
theorem handlerReturns : Obligations.HandlerReturns := by
  refine ⟨fun n s hentry hpush hcode => ?_, fun c s hentry hpush hcode => ?_⟩
  · obtain ⟨u, hret, hframe⟩ := exec_ret_after_push hpush hcode (interrupt_becomes hentry hpush) rfl rfl
    exact ⟨u, hret, becomes_congr_registers (fun r => by cases r <;> rfl) hframe⟩
  · obtain ⟨u, hret, hframe⟩ := exec_ret_after_push hpush hcode (raiseFault_becomes hentry hpush) rfl rfl
    exact ⟨u, hret, becomes_congr_registers (fun r => by cases r <;> rfl) hframe⟩

theorem exec_go_eq (x : Reg) (s : State) :
    exec (.go x) s = complete s [targetCheck s (s.readReg x).toNat] (s.setPc (s.readReg x)) := rfl

/-- Settles O51: the one check of GO, the two checks of RET in their order. -/
theorem absoluteJumps : Obligations.AbsoluteJumps := by
  refine ⟨encodedR00_of_decodeOpcode decodeOpcode_go, encoded000_of_decodeOpcode decodeOpcode_ret,
    fun s x => ⟨fun hcode => ?_, fun hout => ?_⟩,
    fun s w hw => ⟨fun hexists _ hcode => ?_, fun hempty => ?_, fun hexists hout => ?_⟩⟩
  · exact ⟨_, by rw [exec_go_eq, complete_cons_of_none (targetCheck_eq_none.mpr hcode), complete_nil],
      setPc_becomes s (s.readReg x)⟩
  · rw [exec_go_eq, complete_cons_of_some (targetCheck_eq_some.mpr ⟨hout, rfl⟩)]
  · exact ⟨_, exec_ret_of_inCode hw.symm hexists hcode, dropWord_setPc_becomes s w⟩
  · rw [exec_ret_eq, complete_cons_of_some (popCheck_invalidAddress hempty)]
  · have htop : s.topWord = w := hw.symm
    rw [exec_ret_eq, htop, complete_cons_of_none (popCheck_eq_none_iff.mpr hexists),
      complete_cons_of_some (targetCheck_eq_some.mpr ⟨hout, rfl⟩)]

/-! ### CALL -/

/-- The target of a relative jump with PC = A + 4 is `A + 4n` (46_branch.md R270). -/
theorem branchTarget_eq (s : State) (n : BitVec 24) :
    branchTarget s n = ((s.readReg .pc).toNat : Int) - 4 + 4 * n.toInt := by
  change (s.pc.toNat : Int) + 4 * n.toInt - 4 = (s.pc.toNat : Int) - 4 + 4 * n.toInt
  omega

/-- An address in the code segment is held by a register without a wrap. -/
theorem w32_toNat_of_inCode {s : State} {t : Int} (h : InCode s t) : ((w32 t).toNat : Int) = t := by
  obtain ⟨hlo, hhi⟩ := h
  have hds := s.ds.isLt
  refine w32_toNat ?_
  simp only [fitsUnsigned, Bool.and_eq_true, decide_eq_true_eq]
  omega

theorem exec_call_eq (n : BitVec 24) (s : State) :
    exec (.call n) s = complete s [pushCheck s, targetCheck s (branchTarget s n)]
      ((s.pushWord s.pc).setPc (w32 (branchTarget s n))) := rfl

theorem exec_call_of_inCode {s : State} {n : BitVec 24} (hpush : CanPush s) (hcode : InCode s (branchTarget s n)) :
    exec (.call n) s = .next ((s.pushWord s.pc).setPc (w32 (branchTarget s n))) := by
  rw [exec_call_eq, complete_cons_of_none (pushCheck_eq_none.mpr hpush),
    complete_cons_of_none (targetCheck_eq_none.mpr hcode), complete_nil]

theorem exec_call_of_pushFault {s : State} (n : BitVec 24) {c : Cause} (h : pushCheck s = some c) :
    exec (.call n) s = .next (raiseFault c s) := by rw [exec_call_eq, complete_cons_of_some h]

/-- Settles O52: the two checks of CALL in their order, the first in each of its three faults. -/
theorem call : Obligations.Call := by
  refine ⟨encodedNNN_of_decodeOpcode decodeOpcode_call, fun s n target htarget => ?_⟩
  obtain rfl : branchTarget s n = target := (branchTarget_eq s n).trans htarget.symm
  refine ⟨fun hpush hcode => ?_, fun hover => ?_, fun hroom hout => ?_, fun hroom hexists hfree => ?_,
    fun hpush hout => ?_⟩
  · exact ⟨_, _, w32_toNat_of_inCode hcode, exec_call_of_inCode hpush hcode, pushWord_setPc_becomes s s.pc _⟩
  · exact exec_call_of_pushFault n (pushCheck_stackOverflow hover)
  · exact exec_call_of_pushFault n (pushCheck_invalidAddress hroom hout)
  · exact exec_call_of_pushFault n (pushCheck_accessViolation hroom hexists hfree)
  · rw [exec_call_eq, complete_cons_of_none (pushCheck_eq_none.mpr hpush),
      complete_cons_of_some (targetCheck_eq_some.mpr ⟨hout, rfl⟩)]

/-- Settles O53: CALL enters its target as an interrupt enters its handler, and RET takes it back. -/
theorem callThenReturn : Obligations.CallThenReturn := by
  intro s n hpush htarget hcode
  rw [← branchTarget_eq] at htarget
  obtain ⟨u, hret, hframe⟩ :=
    exec_ret_after_push hpush hcode (pushWord_setPc_becomes s s.pc (w32 (branchTarget s n))) rfl rfl
  exact ⟨_, u, exec_call_of_inCode hpush htarget, hret, becomes_congr_registers (fun r => by cases r <;> rfl) hframe⟩

/-! ### INT -/

theorem exec_int_eq (n : BitVec 24) (s : State) : exec (.int n) s = .next (interrupt (requestedInterrupt n) s) := rfl

theorem requestedInterrupt_val (n : BitVec 24) :
    (requestedInterrupt n).val = if n.toNat ≤ 63 then n.toNat else 0 := by
  unfold requestedInterrupt
  split
  · rw [if_pos (by omega)]
  · rw [if_neg (by omega)]; rfl

/-- Settles O54: INT is the interrupt it requests, with no check before it. -/
theorem softwareInterrupt : Obligations.SoftwareInterrupt := by
  refine ⟨encodedNNN_of_decodeOpcode decodeOpcode_int, fun s n e he => ?_⟩
  rw [← requestedInterrupt_val] at he
  subst he
  exact ⟨fun hentry hpush => ⟨_, exec_int_eq n s, interrupt_becomes hentry hpush⟩,
    fun hno => (exec_int_eq n s).trans (congrArg _ (interrupt_eq_halt hno))⟩

end Sys2Proof.Proofs
end

section
/-! SUPPORT. What an instruction can change of the registers, of ERR and of the devices, and IN and OUT (10_state.md
sections 3 and 4, 49_io.md). -/

namespace Sys2Proof.Proofs

open Sys2Proof.Machine

/-! ### Registers an interrupt leaves alone -/

theorem readReg_interrupt {r : Reg} (hsp : r ≠ .sp) (hpc : r ≠ .pc) (n : Fin 64) (s : State) :
    (interrupt n s).readReg r = s.readReg r := by
  obtain ⟨-, h⟩ | ⟨-, -, h⟩ := interrupt_cases n s <;> rw [h]
  · exact readReg_halt s r
  · simp [State.pushWord, hsp, hpc]

theorem readReg_raiseFault {r : Reg} (hsp : r ≠ .sp) (hpc : r ≠ .pc) (herr : r ≠ .err) (c : Cause) (s : State) :
    (raiseFault c s).readReg r = s.readReg r := by
  rw [raiseFault, readReg_interrupt hsp hpc, readReg_setErr, if_neg herr]

theorem err_raiseFault (c : Cause) (s : State) : (raiseFault c s).readReg .err = s.readReg .err ||| c.errMask := by
  rw [raiseFault, readReg_interrupt (by decide) (by decide), readReg_setErr, if_pos rfl]
  rfl

theorem readReg_divideOverflow {r : Reg} (hsp : r ≠ .sp) (hpc : r ≠ .pc) (herr : r ≠ .err) (hhi : r ≠ .hi)
    (hlo : r ≠ .lo) (s : State) : (divideOverflow s).readReg r = s.readReg r := by
  have hbase : (dividedOpen s).readReg r = s.readReg r := by simp [dividedOpen, herr, hhi, hlo]
  obtain h | ⟨n, h⟩ := divideOverflow_cases s <;> rw [h]
  · exact hbase
  · rw [readReg_interrupt hsp hpc, hbase]

/-! ### Registers an instruction leaves alone -/

/-- Instruction `i` has no claim on register `r`: `r` is not its destination (or cannot be written), is none of the
three registers the stack and a fault use, and not the register a compare, a multiply or a divide writes. -/
structure NotWrittenBy (i : Instr) (r : Reg) : Prop where
  dest : i.dest = some r → r.writeProtected = true
  sp : r ≠ .sp
  pc : r ≠ .pc
  err : r ≠ .err
  cmpr : r = .cmpr → ¬IsCompare i
  hiLo : r = .hi ∨ r = .lo → ¬WritesHiLo i

theorem NotWrittenBy.putReg {i : Instr} {r x : Reg} (hr : NotWrittenBy i r) (hx : i.dest = some x) (s : State)
    (v : Word) : (s.putReg x v).readReg r = s.readReg r :=
  readReg_putReg_of_ne v fun h => hr.dest (by rw [hx, h])

theorem effect_readReg {i : Instr} {s t : State} {r : Reg} (h : Effect i s t) (hr : NotWrittenBy i r) :
    t.readReg r = s.readReg r := by
  cases h with
  | raise c => exact readReg_raiseFault hr.sp hr.pc hr.err c s
  | raiseWrapped c x v hdest =>
    exact (readReg_raiseFault hr.sp hr.pc hr.err c _).trans (hr.putReg hdest s v)
  | put x v hdest => exact hr.putReg hdest s v
  | same => rfl
  | halt => exact readReg_halt s r
  | jump v => simp [hr.pc]
  | compare v hcompare =>
    have hne : r ≠ .cmpr := fun h => hr.cmpr h hcompare
    simp [hne]
  | hiLo h l hwrites =>
    have hhi : r ≠ .hi := fun h => hr.hiLo (.inl h) hwrites
    have hlo : r ≠ .lo := fun h => hr.hiLo (.inr h) hwrites
    simp [hhi, hlo]
  | divideOpen hwrites =>
    exact readReg_divideOverflow hr.sp hr.pc hr.err (fun h => hr.hiLo (.inl h) hwrites)
      (fun h => hr.hiLo (.inr h) hwrites) s
  | store a bs => exact readReg_storeBytes s a bs r
  | push w => simp [State.pushWord, hr.sp]
  | call w v => simp [State.pushWord, hr.sp, hr.pc]
  | pop x v hdest =>
    have hdrop : (s.putReg x v).dropWord.readReg r = (s.putReg x v).readReg r := by simp [State.dropWord, hr.sp]
    exact hdrop.trans (hr.putReg hdest s v)
  | ret v => simp [State.dropWord, hr.sp, hr.pc]
  | int n => exact readReg_interrupt hr.sp hr.pc n s
  | input p y a n bs v hdest =>
    rw [hr.putReg hdest, readReg_storeBytes, readReg_takeInput]
  | output p y bs v hdest =>
    rw [hr.putReg hdest, readReg_giveOutput]

/-- A register that no instruction writes but as its destination. -/
theorem notWrittenBy_of_dest {i : Instr} {r : Reg} (hdest : i.dest = some r → r.writeProtected = true)
    (hr : r ∉ [Reg.sp, .pc, .err, .cmpr, .hi, .lo]) : NotWrittenBy i r := by
  simp only [List.mem_cons, List.not_mem_nil, or_false, not_or] at hr
  obtain ⟨hsp, hpc, herr, hcmpr, hhi, hlo⟩ := hr
  exact ⟨hdest, hsp, hpc, herr, fun h => absurd h hcmpr, fun h => absurd h (by rintro (h | h); exacts [hhi h, hlo h])⟩

theorem notWrittenBy_cmpr {i : Instr} (hdest : i.dest ≠ some .cmpr) (hcompare : ¬IsCompare i) :
    NotWrittenBy i .cmpr :=
  ⟨fun h => absurd h hdest, by decide, by decide, by decide, fun _ => hcompare, fun h => absurd h (by decide)⟩

theorem notWrittenBy_hiLo {i : Instr} {r : Reg} (hr : r = .hi ∨ r = .lo) (hdest : i.dest ≠ some r)
    (hwrites : ¬WritesHiLo i) : NotWrittenBy i r := by
  obtain ⟨hsp, hpc, herr, hcmpr⟩ : r ≠ .sp ∧ r ≠ .pc ∧ r ≠ .err ∧ r ≠ .cmpr := by
    obtain rfl | rfl := hr <;> decide
  exact ⟨fun h => absurd h hdest, hsp, hpc, herr, fun h => absurd h hcmpr, fun _ => hwrites⟩

/-- Settles O19: each register in its turn has no claim on it but those the statement names. -/
theorem registersChangeOnlyWhenNamed : Obligations.RegistersChangeOnlyWhenNamed := by
  intro i s t h
  have heffect := exec_effect h
  refine ⟨fun k hdest => ?_, fun hdest => ?_, fun hdest => ?_, fun hdest => ?_, ?_, rfl, fun hdest h1 h2 h3 => ?_,
    fun h1 h2 h3 h4 h5 h6 h7 => ?_⟩
  · exact effect_readReg heffect (notWrittenBy_of_dest (fun hd => absurd hd hdest) (by simp))
  · exact effect_readReg heffect (notWrittenBy_of_dest (fun hd => absurd hd hdest) (by decide))
  · exact effect_readReg heffect (notWrittenBy_of_dest (fun hd => absurd hd hdest) (by decide))
  · exact effect_readReg heffect (notWrittenBy_of_dest (fun hd => absurd hd hdest) (by decide))
  · exact effect_readReg heffect (notWrittenBy_of_dest (fun _ => rfl) (by decide))
  · have hcompare : ¬IsCompare i := by
      rintro (⟨x, y, rfl⟩ | ⟨x, y, rfl⟩ | ⟨x, n, rfl⟩)
      exacts [h1 _ _ rfl, h2 _ _ rfl, h3 _ _ rfl]
    exact effect_readReg heffect (notWrittenBy_cmpr hdest hcompare)
  · have hwrites : ¬WritesHiLo i := by
      rintro (⟨x, y, rfl⟩ | ⟨x, y, rfl⟩ | ⟨x, n, rfl⟩ | ⟨x, y, rfl⟩ | ⟨x, y, rfl⟩ | ⟨x, n, rfl⟩ | ⟨x, n, rfl⟩)
      exacts [h1 _ _ rfl, h2 _ _ rfl, h3 _ _ rfl, h4 _ _ rfl, h5 _ _ rfl, h6 _ _ rfl, h7 _ _ rfl]
    exact ⟨fun hdest => effect_readReg heffect (notWrittenBy_hiLo (.inl rfl) hdest hwrites),
      fun hdest => effect_readReg heffect (notWrittenBy_hiLo (.inr rfl) hdest hwrites)⟩

/-! ### ERR -/

theorem err_putReg {i : Instr} {x : Reg} (hx : i.dest = some x) (hdest : i.dest ≠ some .err) (s : State) (v : Word) :
    (s.putReg x v).readReg .err = s.readReg .err :=
  readReg_putReg_of_ne v fun h => absurd (hx.trans (congrArg some h.symm)) hdest

/-- ERR is as before, or has the bit of one cause more. -/
theorem effect_err {i : Instr} {s t : State} (h : Effect i s t) (hdest : i.dest ≠ some .err)
    (hopen : ¬DividesOpen i s) :
    t.readReg .err = s.readReg .err ∨ ∃ c : Cause, t.readReg .err = s.readReg .err ||| c.errMask := by
  cases h with
  | raise c => exact .inr ⟨c, err_raiseFault c s⟩
  | raiseWrapped c x v hx => exact .inr ⟨c, by rw [err_raiseFault, err_putReg hx hdest]⟩
  | put x v hx => exact .inl (err_putReg hx hdest s v)
  | same | halt | jump | compare | hiLo | store | push | call | ret => exact .inl rfl
  | divideOpen _ hdivides => exact absurd hdivides hopen
  | pop x v hx => exact .inl (err_putReg hx hdest s v)
  | int n => exact .inl (readReg_interrupt (by decide) (by decide) n s)
  | input p y a n bs v hx =>
    exact .inl (by rw [err_putReg hx hdest, readReg_storeBytes, readReg_takeInput])
  | output p y bs v hx => exact .inl (by rw [err_putReg hx hdest, readReg_giveOutput])

/-- Settles O20: the two forms that raise a fault set the bit of its cause, the others leave ERR. -/
theorem errChangesByOneFaultBit : Obligations.ErrChangesByOneFaultBit := by
  intro i s t h hdest hdiv hdivi
  refine effect_err (exec_effect h) hdest ?_
  rintro (⟨x, y, hi, hopen⟩ | ⟨x, n, hi, hopen⟩)
  · exact hdiv x y hi hopen
  · exact hdivi x n hi hopen

/-! ### Devices -/

theorem divideOverflow_ports (s : State) :
    (divideOverflow s).inPorts = s.inPorts ∧ (divideOverflow s).outPorts = s.outPorts := by
  obtain h | ⟨n, h⟩ := divideOverflow_cases s <;> rw [h]
  · exact ⟨rfl, rfl⟩
  · exact ⟨interrupt_inPorts n _, interrupt_outPorts n _⟩

/-- All an instruction can do to a device: nothing, or one transfer of IN, or one of OUT. -/
theorem effect_ports_cases {i : Instr} {s t : State} (h : Effect i s t) :
    (t.inPorts = s.inPorts ∧ t.outPorts = s.outPorts) ∨
      (i.isTransfer = true ∧ ∃ (p : Fin 8) (y : Reg) (a n : Nat) (bs : List Byte) (v : Word),
        t = ((s.takeInput p n).storeBytes a bs).putReg y v) ∨
      (i.isTransfer = true ∧ ∃ (p : Fin 8) (y : Reg) (bs : List Byte) (v : Word),
        t = (s.giveOutput p bs).putReg y v) := by
  cases h with
  | raise c => exact .inl ⟨raiseFault_inPorts c s, raiseFault_outPorts c s⟩
  | raiseWrapped c x v => exact .inl (by simp)
  | put x v => exact .inl (by simp)
  | same | halt | jump | compare | hiLo | store | push | call | ret => exact .inl ⟨rfl, rfl⟩
  | divideOpen => exact .inl (divideOverflow_ports s)
  | pop x v => exact .inl ⟨putReg_inPorts s x v, putReg_outPorts s x v⟩
  | int n => exact .inl ⟨interrupt_inPorts n s, interrupt_outPorts n s⟩
  | input p y a n bs v _ htransfer => exact .inr (.inl ⟨htransfer, p, y, a, n, bs, v, rfl⟩)
  | output p y bs v _ htransfer => exact .inr (.inr ⟨htransfer, p, y, bs, v, rfl⟩)

theorem effect_ports {i : Instr} {s t : State} (h : Effect i s t) (hi : i.isTransfer = false) :
    t.inPorts = s.inPorts ∧ t.outPorts = s.outPorts := by
  obtain hsame | ⟨htransfer, -⟩ | ⟨htransfer, -⟩ := effect_ports_cases h
  · exact hsame
  · rw [hi] at htransfer; cases htransfer
  · rw [hi] at htransfer; cases htransfer

/-- What an offer leaves on its own port: the trace with the accepted bytes behind it. -/
theorem giveOutput_trace (s : State) (p : Fin 8) (bs : List Byte) :
    (s.giveOutput p bs).outPorts[p].trace = s.outPorts[p].trace ++ bs.take (outputAnswer s p bs) := by
  unfold State.giveOutput
  split <;> simp

theorem giveOutput_outPorts_of_ne {p q : Fin 8} (h : q ≠ p) (s : State) (bs : List Byte) :
    (s.giveOutput p bs).outPorts[q] = s.outPorts[q] := by
  have hval : p.val ≠ q.val := fun e => h (Fin.ext e.symm)
  unfold State.giveOutput
  split
  · rfl
  · simp [hval]

theorem takeInput_inPorts_of_ne {p q : Fin 8} {n : Nat} (h : q ≠ p ∨ n = 0) (s : State) :
    (s.takeInput p n).inPorts[q] = s.inPorts[q] := by
  unfold State.takeInput
  split
  · rfl
  · next hn =>
    have hval : p.val ≠ q.val := fun e => (h.resolve_right hn) (Fin.ext e.symm)
    simp [hval]

theorem effect_trace {i : Instr} {s t : State} (h : Effect i s t) (p : Fin 8) :
    ∃ sent, t.outPorts[p].trace = s.outPorts[p].trace ++ sent := by
  obtain ⟨-, hout⟩ | ⟨-, q, y, a, n, bs, v, rfl⟩ | ⟨-, q, y, bs, v, rfl⟩ := effect_ports_cases h
  · exact ⟨[], by rw [hout, List.append_nil]⟩
  · have hout : (((s.takeInput q n).storeBytes a bs).putReg y v).outPorts = s.outPorts :=
      (putReg_outPorts _ y v).trans (takeInput_outPorts s q n)
    exact ⟨[], by rw [hout, List.append_nil]⟩
  · rw [putReg_outPorts]
    by_cases hq : p = q
    · subst hq; exact ⟨_, giveOutput_trace s p bs⟩
    · exact ⟨[], by rw [giveOutput_outPorts_of_ne hq, List.append_nil]⟩

/-- Settles O21: the device half of every form of effect. -/
theorem devicesOnlyByTransfers : Obligations.DevicesOnlyByTransfers := by
  refine ⟨fun s t h p => ?_, fun i s t h hi => effect_ports (exec_effect h) hi⟩
  obtain rfl | rfl | ⟨i, heffect⟩ := step_effect h
  · exact ⟨[], (List.append_nil _).symm⟩
  · exact ⟨[], (List.append_nil _).symm⟩
  · exact effect_trace (s := afterFetch s) heffect p

/-! ### The checks of IN and OUT -/

theorem countRegisterRefused_eq_false_iff {y : Reg} : countRegisterRefused y = false ↔ y ∉ [Reg.he, .sp] := by
  cases y <;> decide +revert

theorem portCheck_eq_none_iff {s : State} {z : Reg} : portCheck s z = none ↔ (s.readReg z).toNat ≤ 7 := by
  unfold portCheck State.unsigned
  split <;> simp <;> omega

theorem portCheck_noSuchPort {s : State} {z : Reg} (h : 7 < (s.readReg z).toNat) :
    portCheck s z = some .noSuchPort := if_pos h

theorem portOf_eq {s : State} {z : Reg} {p : Fin 8} (h : (s.readReg z).toNat = p.val) : portOf s z = p := by
  apply Fin.ext
  change (s.readReg z).toNat % 8 = p.val
  rw [h]
  exact Nat.mod_eq_of_lt p.isLt

theorem portOf_val {s : State} {z : Reg} (h : (s.readReg z).toNat ≤ 7) : (s.readReg z).toNat = (portOf s z).val :=
  (Nat.mod_eq_of_lt (by omega : (s.readReg z).toNat < 8)).symm

/-- A count register other than HE and SP takes every count, unless it is write-protected under `WP_WRITE = int9`. -/
theorem accepts_count {s : State} {y : Reg} (hy : y ∉ [Reg.he, .sp])
    (hwp : y.writeProtected = true → s.params.wpWrite = .discard) (v : Word) : Accepts s y v := by
  simp only [List.mem_cons, List.not_mem_nil, or_false, not_or] at hy
  exact ⟨hwp, fun h => absurd h hy.1, fun h => absurd h hy.2⟩

theorem exec_inp_eq {s : State} {x y z : Reg} {a n : Nat} (hy : y ∉ [Reg.he, .sp]) (ha : a = (s.readReg x).toNat)
    (hn : n = (s.readReg y).toNat) :
    exec (.inp x y z) s =
      complete s [portCheck s z, writeCheck s a n,
          destCheck s y (BitVec.ofNat 32 (inputAnswer s (portOf s z) n).length)]
        (((s.takeInput (portOf s z) n).storeBytes a (inputAnswer s (portOf s z) n)).putReg y
          (BitVec.ofNat 32 (inputAnswer s (portOf s z) n).length)) := by
  subst ha hn
  rw [exec_inp, execInp, countRegisterRefused_eq_false_iff.mpr hy]
  rfl

theorem exec_out_eq {s : State} {x y z : Reg} {a n : Nat} (hy : y ∉ [Reg.he, .sp]) (ha : a = (s.readReg x).toNat)
    (hn : n = (s.readReg y).toNat) :
    exec (.out x y z) s =
      complete s [portCheck s z, readCheck s a n,
          destCheck s y (BitVec.ofNat 32 (outputAnswer s (portOf s z) (s.mem.readBytes a n)))]
        ((s.giveOutput (portOf s z) (s.mem.readBytes a n)).putReg y
          (BitVec.ofNat 32 (outputAnswer s (portOf s z) (s.mem.readBytes a n)))) := by
  subst ha hn
  rw [exec_out, execOut, countRegisterRefused_eq_false_iff.mpr hy]
  rfl

/-- Settles O35: the first thing POP, IN and OUT look at is the form. -/
theorem formsWithoutMeaningRefused : Obligations.FormsWithoutMeaningRefused := by
  intro s
  refine ⟨by rw [exec_pop, execPop, if_pos rfl], fun x z y hy => ?_⟩
  have hrefused : countRegisterRefused y = true := by
    by_contra hno
    exact countRegisterRefused_eq_false_iff.mp (by simpa using hno) hy
  exact ⟨if_pos hrefused, if_pos hrefused⟩

/-! ### IN and OUT where they complete -/

theorem exec_inp_of_accepts {s : State} {x y z : Reg} {a n : Nat} {p : Fin 8} (hy : y ∉ [Reg.he, .sp])
    (hwp : y.writeProtected = true → s.params.wpWrite = .discard) (ha : a = (s.readReg x).toNat)
    (hn : n = (s.readReg y).toNat) (hp : (s.readReg z).toNat = p.val) (hexists : n ≠ 0 → a + n ≤ s.params.memSize)
    (hfree : Unprotected s a n) :
    exec (.inp x y z) s =
      .next (((s.takeInput p n).storeBytes a (inputAnswer s p n)).putReg y
        (BitVec.ofNat 32 (inputAnswer s p n).length)) := by
  have hport := portOf_eq hp
  have hle := p.isLt
  rw [exec_inp_eq hy ha hn, hport, complete_cons_of_none (portCheck_eq_none_iff.mpr (by omega)),
    complete_cons_of_none (writeCheck_eq_none.mpr ⟨hexists, hfree⟩),
    complete_cons_of_none (destCheck_eq_none.mpr (accepts_count hy hwp _)), complete_nil]

theorem exec_out_of_accepts {s : State} {x y z : Reg} {a n : Nat} {p : Fin 8} (hy : y ∉ [Reg.he, .sp])
    (hwp : y.writeProtected = true → s.params.wpWrite = .discard) (ha : a = (s.readReg x).toNat)
    (hn : n = (s.readReg y).toNat) (hp : (s.readReg z).toNat = p.val) (hexists : n ≠ 0 → a + n ≤ s.params.memSize) :
    exec (.out x y z) s =
      .next ((s.giveOutput p (s.mem.readBytes a n)).putReg y
        (BitVec.ofNat 32 (outputAnswer s p (s.mem.readBytes a n)))) := by
  have hport := portOf_eq hp
  have hle := p.isLt
  rw [exec_out_eq hy ha hn, hport, complete_cons_of_none (portCheck_eq_none_iff.mpr (by omega)),
    complete_cons_of_none (readCheck_eq_none.mpr hexists),
    complete_cons_of_none (destCheck_eq_none.mpr (accepts_count hy hwp _)), complete_nil]

/-- A scheduled answer is delivered as scheduled, cut to what was asked for (49_io.md R303). -/
theorem inputAnswer_of_script {s : State} {p : Fin 8} {first : List Byte} {later : List (List Byte)}
    (h : s.inPorts[p].script = first :: later) (n : Nat) : inputAnswer s p n = first.take n := by
  simp only [inputAnswer, ← Fin.getElem_fin, h]

/-- A scheduled acceptance is kept, up to the bytes offered (49_io.md R303). -/
theorem outputAnswer_of_script {s : State} {p : Fin 8} {first : Nat} {later : List Nat}
    (h : s.outPorts[p].script = first :: later) (offered : List Byte) :
    outputAnswer s p offered = min first offered.length := by
  cases offered with
  | nil => simp [outputAnswer]
  | cons b bs => simp only [outputAnswer, ← Fin.getElem_fin, h]

/-- Settles O55: what the transfer leaves, with the bytes the device answers. -/
theorem input : Obligations.Input := by
  refine ⟨encodedRRR_of_decodeOpcode decodeOpcode_inp, fun s x y z a n p hy hwp ha hn hp hexists hfree => ?_⟩
  refine ⟨inputAnswer s p n, _, inputAnswer_length s p n, exec_inp_of_accepts hy hwp ha hn hp hexists hfree,
    fun r => ?registers, fun b => ?memory, ?_, ?_, ?_, ?_, fun q hq => ?ports,
    fun first later hscript => inputAnswer_of_script hscript n⟩
  case registers => rw [readReg_putReg, lookup_written, readReg_storeBytes, readReg_takeInput]
  case memory =>
    rw [putReg_mem]
    change ((s.takeInput p n).mem.writeBytes a (inputAnswer s p n)).read b = _
    rw [takeInput_mem, Memory.read_writeBytes]
  case ports =>
    rw [putReg_inPorts]
    exact takeInput_inPorts_of_ne hq s
  all_goals simp [State.storeBytes]

/-- Settles O56: what the transfer leaves, with the count the device accepts. -/
theorem output : Obligations.Output := by
  refine ⟨encodedRRR_of_decodeOpcode decodeOpcode_out, fun s x y z a n p hy hwp ha hn hp hexists => ?_⟩
  have hlength := Memory.readBytes_length s.mem a n
  refine ⟨outputAnswer s p (s.mem.readBytes a n), _, (outputAnswer_le s p _).trans_eq hlength,
    exec_out_of_accepts hy hwp ha hn hp hexists, fun r => ?registers, memoryAfter_nil_iff.mpr fun b => ?memory,
    ?_, ?_, ?_, ?_, ?trace, fun q hq => ?ports, fun first later hscript => ?script⟩
  case registers => rw [readReg_putReg, lookup_written, readReg_giveOutput]
  case memory => rw [putReg_mem, giveOutput_mem]
  case trace =>
    rw [putReg_outPorts]
    exact giveOutput_trace s p _
  case ports =>
    rw [putReg_outPorts]
    exact giveOutput_outPorts_of_ne hq s _
  case script => rw [outputAnswer_of_script hscript, hlength]
  all_goals simp

/-! ### IN and OUT where they fault -/

theorem rejects_count {s : State} {y : Reg} (hwp : y.writeProtected = true) (hint : s.params.wpWrite = .int9)
    (v : Word) : Rejects s y v .invalidRegister := .inl ⟨hwp, hint, rfl⟩

/-- Settles O57: the checks of IN and OUT in their order. -/
theorem transferFaults : Obligations.TransferFaults := by
  intro s x y z a n hy ha hn
  have hin := exec_inp_eq (z := z) hy ha hn
  have hout := exec_out_eq (z := z) hy ha hn
  refine ⟨?_, fun hport hexists hcode => ?_, fun hport hexists hwp hint => ⟨fun hfree => ?_, ?_⟩⟩
  · rw [List.forall_mem_cons, List.forall_mem_cons, hin, hout]
    refine ⟨⟨fun hport => ?_, fun hport hne hlong => ?_⟩, ⟨fun hport => ?_, fun hport hne hlong => ?_⟩,
      fun _ h => nomatch h⟩
    · rw [complete_cons_of_some (portCheck_noSuchPort hport)]
    · rw [complete_cons_of_none (portCheck_eq_none_iff.mpr hport),
        complete_cons_of_some (writeCheck_invalidAddress hne hlong)]
    · rw [complete_cons_of_some (portCheck_noSuchPort hport)]
    · rw [complete_cons_of_none (portCheck_eq_none_iff.mpr hport),
        complete_cons_of_some (readCheck_eq_some.mpr ⟨⟨hne, hlong⟩, rfl⟩)]
  · rw [hin, complete_cons_of_none (portCheck_eq_none_iff.mpr hport),
      complete_cons_of_some (writeCheck_accessViolation hexists hcode)]
  · rw [hin, complete_cons_of_none (portCheck_eq_none_iff.mpr hport),
      complete_cons_of_none (writeCheck_eq_none.mpr ⟨hexists, hfree⟩),
      complete_cons_of_some (destCheck_eq_some.mpr (rejects_count hwp hint _))]
  · rw [hout, complete_cons_of_none (portCheck_eq_none_iff.mpr hport),
      complete_cons_of_none (readCheck_eq_none.mpr hexists),
      complete_cons_of_some (destCheck_eq_some.mpr (rejects_count hwp hint _))]

/-! ### Where bytes move -/

theorem countRegister_of_inp_next {s t : State} {x y z : Reg} (h : exec (.inp x y z) s = .next t) :
    y ∉ [Reg.he, .sp] := by
  intro hy
  rw [((formsWithoutMeaningRefused s).2 x z y hy).1] at h
  cases h

theorem countRegister_of_out_next {s t : State} {x y z : Reg} (h : exec (.out x y z) s = .next t) :
    y ∉ [Reg.he, .sp] := by
  intro hy
  rw [((formsWithoutMeaningRefused s).2 x z y hy).2] at h
  cases h

/-- All an IN can do: raise a fault, or transfer from an existing port. -/
theorem exec_inp_cases {s t : State} {x y z : Reg} (h : exec (.inp x y z) s = .next t) :
    (∃ c, t = raiseFault c s) ∨ ∃ p : Fin 8, (s.readReg z).toNat = p.val ∧
      t = ((s.takeInput p (s.readReg y).toNat).storeBytes (s.readReg x).toNat
        (inputAnswer s p (s.readReg y).toNat)).putReg y
          (BitVec.ofNat 32 (inputAnswer s p (s.readReg y).toNat).length) := by
  rw [exec_inp_eq (countRegister_of_inp_next h) rfl rfl] at h
  obtain ⟨hchecks, rfl⟩ | ⟨c, -, rfl⟩ := complete_cases h
  · have hport : portCheck s z = none := firstCause_eq_none.mp hchecks _ (by simp)
    exact .inr ⟨portOf s z, portOf_val (portCheck_eq_none_iff.mp hport), rfl⟩
  · exact .inl ⟨c, rfl⟩

/-- All an OUT can do: raise a fault, or transfer to an existing port. -/
theorem exec_out_cases {s t : State} {x y z : Reg} (h : exec (.out x y z) s = .next t) :
    (∃ c, t = raiseFault c s) ∨ ∃ p : Fin 8, (s.readReg z).toNat = p.val ∧
      t = (s.giveOutput p (s.mem.readBytes (s.readReg x).toNat (s.readReg y).toNat)).putReg y
        (BitVec.ofNat 32 (outputAnswer s p (s.mem.readBytes (s.readReg x).toNat (s.readReg y).toNat))) := by
  rw [exec_out_eq (countRegister_of_out_next h) rfl rfl] at h
  obtain ⟨hchecks, rfl⟩ | ⟨c, -, rfl⟩ := complete_cases h
  · have hport : portCheck s z = none := firstCause_eq_none.mp hchecks _ (by simp)
    exact .inr ⟨portOf s z, portOf_val (portCheck_eq_none_iff.mp hport), rfl⟩
  · exact .inl ⟨c, rfl⟩

/-- IN touches no output port. -/
theorem outPorts_of_inp_next {s t : State} {x y z : Reg} (h : exec (.inp x y z) s = .next t) :
    t.outPorts = s.outPorts := by
  obtain ⟨c, rfl⟩ | ⟨p, -, rfl⟩ := exec_inp_cases h
  · exact raiseFault_outPorts c s
  · exact (putReg_outPorts _ y _).trans (takeInput_outPorts s p _)

/-- OUT touches no input port. -/
theorem inPorts_of_out_next {s t : State} {x y z : Reg} (h : exec (.out x y z) s = .next t) :
    t.inPorts = s.inPorts := by
  obtain ⟨c, rfl⟩ | ⟨p, -, rfl⟩ := exec_out_cases h
  · exact raiseFault_inPorts c s
  · exact (putReg_inPorts _ y _).trans (giveOutput_inPorts s p _)

/-- An OUT that changes a port has sent it bytes of memory, at most as many as it was asked for. -/
theorem out_moves_bytes {s t : State} {x y z : Reg} (h : exec (.out x y z) s = .next t) {p : Fin 8}
    (hp : t.outPorts[p] ≠ s.outPorts[p]) :
    (s.readReg z).toNat = p.val ∧ ∃ k : Nat, k ≤ (s.readReg y).toNat ∧
      t.outPorts[p].trace = s.outPorts[p].trace ++ s.mem.readBytes (s.readReg x).toNat k := by
  obtain ⟨c, rfl⟩ | ⟨q, hq, rfl⟩ := exec_out_cases h
  · exact absurd (by rw [raiseFault_outPorts]) hp
  · rw [putReg_outPorts] at hp ⊢
    obtain rfl : p = q := by
      by_contra hne
      exact hp (giveOutput_outPorts_of_ne hne s _)
    have hk := outputAnswer_le s p (s.mem.readBytes (s.readReg x).toNat (s.readReg y).toNat)
    rw [Memory.readBytes_length] at hk
    refine ⟨hq, _, hk, ?_⟩
    rw [giveOutput_trace, Memory.readBytes_take, Nat.min_eq_left hk]

/-- An IN that changes a port has stored the bytes it delivered and left their count, and nothing else. -/
theorem inp_moves_bytes {s t : State} {x y z : Reg} (h : exec (.inp x y z) s = .next t) {p : Fin 8}
    (hp : t.inPorts[p] ≠ s.inPorts[p]) :
    (s.readReg z).toNat = p.val ∧ ∃ k : Nat, k ≤ (s.readReg y).toNat ∧
      (∀ b : Nat, ¬((s.readReg x).toNat ≤ b ∧ b < (s.readReg x).toNat + k) → t.mem.read b = s.mem.read b) ∧
      (t.readReg y = s.readReg y ∨ t.readReg y = BitVec.ofNat 32 k) ∧
      ∀ r : Reg, r ≠ y → t.readReg r = s.readReg r := by
  obtain ⟨c, rfl⟩ | ⟨q, hq, rfl⟩ := exec_inp_cases h
  · exact absurd (by rw [raiseFault_inPorts]) hp
  · obtain rfl : p = q := by
      by_contra hne
      rw [putReg_inPorts] at hp
      exact hp (takeInput_inPorts_of_ne (.inl hne) s)
    refine ⟨hq, _, inputAnswer_length s p _, fun b hb => ?memory, ?count, fun r hr => ?registers⟩
    case memory =>
      rw [putReg_mem]
      change ((s.takeInput p _).mem.writeBytes _ _).read b = _
      rw [takeInput_mem, Memory.read_writeBytes, if_neg hb]
    case count =>
      rw [readReg_putReg, readReg_storeBytes, readReg_takeInput]
      split
      · exact .inr rfl
      · exact .inl rfl
    case registers => rw [readReg_putReg_of_ne _ fun e => absurd e hr, readReg_storeBytes, readReg_takeInput]

/-- An instruction that changes a port is an IN or an OUT. -/
theorem transfer_of_ports_ne {i : Instr} {s t : State} (h : exec i s = .next t) {p : Fin 8}
    (hp : t.outPorts[p] ≠ s.outPorts[p] ∨ t.inPorts[p] ≠ s.inPorts[p]) :
    (∃ x y z, i = .inp x y z) ∨ ∃ x y z, i = .out x y z := by
  cases htransfer : i.isTransfer with
  | false =>
    obtain ⟨hin, hout⟩ := effect_ports (exec_effect h) htransfer
    rw [hin, hout] at hp
    exact absurd hp (by simp)
  | true =>
    cases i with
    | inp x y z => exact .inl ⟨x, y, z, rfl⟩
    | out x y z => exact .inr ⟨x, y, z, rfl⟩
    | _ => cases htransfer

/-- Settles O60: a port that differs names the instruction, and IN and OUT move bytes as their transfers do. -/
theorem bytesMoveOnlyBetweenPortsAndMemory : Obligations.BytesMoveOnlyBetweenPortsAndMemory := by
  intro i s t h p
  refine ⟨fun hp => ?_, fun hp => ?_⟩
  · obtain ⟨x, y, z, rfl⟩ | ⟨x, y, z, rfl⟩ := transfer_of_ports_ne h (.inl hp)
    · exact absurd (by rw [outPorts_of_inp_next h]) hp
    · exact ⟨x, y, z, rfl, out_moves_bytes h hp⟩
  · obtain ⟨x, y, z, rfl⟩ | ⟨x, y, z, rfl⟩ := transfer_of_ports_ne h (.inr hp)
    · exact ⟨x, y, z, rfl, inp_moves_bytes h hp⟩
    · exact absurd (by rw [inPorts_of_out_next h]) hp

end Sys2Proof.Proofs
end

section
/-! SUPPORT. The instructions that leave a result in their destination, and the stores (41_load_store.md,
42_arithmetic.md, 43_logic_bitwise.md, 44_logic_shift_rotate.md). -/

namespace Sys2Proof.Proofs

open Sys2Proof.Machine

/-- A statement about every row of a table of one row more. -/
theorem forall_row_cons {α : Type} {P : α → Prop} {row : α} {rows : List α} (h : P row) (hrows : ∀ p ∈ rows, P p) :
    ∀ p ∈ row :: rows, P p := List.forall_mem_cons.mpr ⟨h, hrows⟩

theorem forall_row_nil {α : Type} {P : α → Prop} : ∀ p ∈ ([] : List α), P p := List.forall_mem_nil P

/-! ### Results -/

/-- An instruction that writes a result after checks that pass gives its destination that value. -/
theorem yields_of_writeResult {s : State} {i : Instr} {x : Reg} {v : Word} {checks : List (Option Cause)}
    (hchecks : firstCause checks = none) (hexec : exec i s = writeResult s checks x v) : Yields s i x v :=
  ⟨fun ha => ⟨_, hexec.trans (writeResult_of_accepts hchecks ha), putReg_becomes s x v⟩,
    fun _ hr => hexec.trans (writeResult_of_rejects hchecks hr)⟩

/-- The same without checks, the value given in another way. -/
theorem yields_of_eq {s : State} {i : Instr} {x : Reg} {v w : Word} (hexec : exec i s = writeResult s [] x w)
    (hvalue : w = v) : Yields s i x v := by
  subst hvalue
  exact yields_of_writeResult firstCause_nil hexec

theorem writeResult_cons_of_some {s : State} {c : Option Cause} {rest : List (Option Cause)} {cause : Cause}
    (x : Reg) (v : Word) (h : c = some cause) : writeResult s (c :: rest) x v = .next (raiseFault cause s) :=
  complete_cons_of_some h

/-! ### SET, CP, NOP, EOP -/

theorem w32_sext16 (n : BitVec 16) : w32 (sext16 n) = n.signExtend 32 :=
  w32_of_toInt (BitVec.toInt_signExtend_of_le (by omega))

/-- Settles O28: SET and CP have no check of their own. -/
theorem setAndCopy : Obligations.SetAndCopy := by
  refine ⟨encodedRNN_of_decodeOpcode decodeOpcode_set, encodedRR0_of_decodeOpcode decodeOpcode_cp, fun s x y n => ?_⟩
  refine forall_row_cons (yields_of_eq rfl (w32_sext16 n)) (forall_row_cons (yields_of_eq rfl rfl) forall_row_nil)

/-- Settles O27: NOP leaves the state its fetch left, EOP that state halted. -/
theorem controlInstructions : Obligations.ControlInstructions :=
  ⟨encoded000_nop, encoded000_of_decodeOpcode decodeOpcode_eop, fun s => ⟨exec_nop_eq_next s, rfl⟩⟩

/-! ### Loads -/

/-- A byte put behind a bit string, as numbers. -/
theorem append_byte_toNat {m : Nat} (v : BitVec m) (b : Byte) : (v ++ b).toNat = v.toNat * 256 + b.toNat := by
  rw [BitVec.toNat_append, ← Nat.shiftLeft_add_eq_or_of_lt b.isLt, Nat.shiftLeft_eq]

theorem replaceLowByte_eq_append (v : Word) (b : Byte) : replaceLowByte v b = v.extractLsb' 8 24 ++ b := by
  have hv := v.isLt; have hb := b.isLt
  apply BitVec.eq_of_toNat_eq
  rw [append_byte_toNat, replaceLowByte, BitVec.toNat_ofNat, BitVec.extractLsb'_toNat, Nat.shiftRight_eq_div_pow]
  omega

theorem wordOfBytes_eq_append (a b c d : Byte) : wordOfBytes a b c d = a ++ b ++ c ++ d := by
  have ha := a.isLt; have hb := b.isLt; have hc := c.isLt; have hd := d.isLt
  apply BitVec.eq_of_toNat_eq
  rw [append_byte_toNat, append_byte_toNat, append_byte_toNat, wordOfBytes, BitVec.toNat_ofNat]
  omega

/-- A load whose bytes do not all exist. -/
theorem writeResult_of_missing {s : State} {a n : Nat} {rest : List (Option Cause)} (x : Reg) (v : Word) (hn : n ≠ 0)
    (h : s.params.memSize < a + n) :
    writeResult s (readCheck s a n :: rest) x v = .next (raiseFault .invalidAddress s) :=
  writeResult_cons_of_some x v (readCheck_eq_some.mpr ⟨⟨hn, h⟩, rfl⟩)

theorem firstCause_readCheck {s : State} {a n : Nat} (h : a + n ≤ s.params.memSize) :
    firstCause [readCheck s a n] = none := by
  rw [readCheck_eq_none.mpr fun _ => h, firstCause_none, firstCause_nil]

/-- Settles O29: the one check of LB, and the word with its low byte replaced. -/
theorem loadByte : Obligations.LoadByte := by
  refine ⟨encodedRR0_of_decodeOpcode decodeOpcode_lb, fun s x y v hv => ?_⟩
  have hexec : exec (.lb x y) s = writeResult s [readCheck s (s.readReg y).toNat 1] x v := by
    rw [hv, ← replaceLowByte_eq_append]; rfl
  refine ⟨fun hexists => yields_of_writeResult (firstCause_readCheck hexists) hexec, fun hmissing => ?_⟩
  rw [hexec, writeResult_of_missing x v (by omega) (by omega)]

/-- Settles O30: the one check of LW, and its four bytes as one word. -/
theorem loadWord : Obligations.LoadWord := by
  refine ⟨encodedRR0_of_decodeOpcode decodeOpcode_lw, fun s x y a v ha hv => ?_⟩
  have hexec : exec (.lw x y) s = writeResult s [readCheck s a 4] x v := by
    rw [hv, ← wordOfBytes_eq_append, ha]; rfl
  refine ⟨fun hexists => yields_of_writeResult (firstCause_readCheck hexists) hexec, fun hmissing => ?_⟩
  rw [hexec, writeResult_of_missing x v (by omega) hmissing]

/-! ### Stores -/

/-- The three cases of an instruction that stores bytes after the check of their write (20_memory.md R87). -/
theorem store_cases {s : State} {i : Instr} {a : Nat} {bs : List Byte} (hne : bs.length ≠ 0)
    (hexec : exec i s = complete s [writeCheck s a bs.length] (s.storeBytes a bs)) :
    (a + bs.length ≤ s.params.memSize → Unprotected s a bs.length →
        ∃ t, exec i s = .next t ∧ Becomes s t [] a bs) ∧
      (s.params.memSize < a + bs.length → exec i s = .next (raiseFault .invalidAddress s)) ∧
      (a + bs.length ≤ s.params.memSize → ¬Unprotected s a bs.length →
        exec i s = .next (raiseFault .accessViolation s)) := by
  rw [hexec]
  refine ⟨fun hexists hfree => ⟨_, ?_, storeBytes_becomes s a bs⟩, fun hmissing => ?_, fun hexists hcode => ?_⟩
  · rw [complete_cons_of_none (writeCheck_eq_none.mpr ⟨fun _ => hexists, hfree⟩), complete_nil]
  · rw [complete_cons_of_some (writeCheck_invalidAddress hne hmissing)]
  · rw [complete_cons_of_some (writeCheck_accessViolation hexists hcode)]

/-- Settles O31: SB and SW are the same store, of one byte and of four. -/
theorem stores : Obligations.Stores := by
  refine ⟨encodedRR0_of_decodeOpcode decodeOpcode_sb, encodedRR0_of_decodeOpcode decodeOpcode_sw,
    fun s x y a ha => ?_⟩
  subst ha
  exact forall_row_cons (store_cases Nat.one_ne_zero rfl) (forall_row_cons (store_cases (Nat.succ_ne_zero 3) rfl)
    forall_row_nil)

/-! ### Sums and differences -/

theorem fitsSigned_eq_false {r : Int} (h : r < -2 ^ 31 ∨ 2 ^ 31 - 1 < r) : fitsSigned r = false := by
  simp only [fitsSigned, Bool.and_eq_false_iff, decide_eq_false_iff_not]
  omega

theorem fitsUnsigned_eq_false {r : Int} (h : r < 0 ∨ 2 ^ 32 - 1 < r) : fitsUnsigned r = false := by
  simp only [fitsUnsigned, Bool.and_eq_false_iff, decide_eq_false_iff_not]
  omega

theorem arithmeticResult_of_fits {s : State} {x : Reg} {r : Int} {fits : Bool} (h : fits = true) :
    arithmeticResult s fits x r = writeResult s [] x (w32 r) := if_pos h

/-- A sum or difference whose exact result `r` must fit a signed reading (42_arithmetic.md R202). -/
theorem signed_result {s : State} {i : Instr} {x : Reg} {r : Int}
    (hexec : exec i s = arithmeticResult s (fitsSigned r) x r) :
    (∀ v : Word, v.toInt = r → Yields s i x v) ∧
      (r < -2 ^ 31 ∨ 2 ^ 31 - 1 < r → s.params.overflowDest = .unchanged →
        exec i s = .next (raiseFault .overflow s)) := by
  refine ⟨fun v hv => ?_, fun hr hdest => ?_⟩
  · subst hv
    exact yields_of_eq (hexec.trans (arithmeticResult_of_fits (fitsSigned_toInt v))) (w32_of_toInt rfl)
  · rw [hexec, fitsSigned_eq_false hr, arithmeticResult_unchanged hdest]

/-- A sum or difference whose exact result `r` must fit an unsigned reading (42_arithmetic.md R202). -/
theorem unsigned_result {s : State} {i : Instr} {x : Reg} {r : Int}
    (hexec : exec i s = arithmeticResult s (fitsUnsigned r) x r) :
    (∀ v : Word, (v.toNat : Int) = r → Yields s i x v) ∧
      (r < 0 ∨ 2 ^ 32 - 1 < r → s.params.overflowDest = .unchanged →
        exec i s = .next (raiseFault .overflow s)) := by
  refine ⟨fun v hv => ?_, fun hr hdest => ?_⟩
  · subst hv
    exact yields_of_eq (hexec.trans (arithmeticResult_of_fits (fitsUnsigned_toNat v))) (w32_of_toNat rfl)
  · rw [hexec, fitsUnsigned_eq_false hr, arithmeticResult_unchanged hdest]

/-- Settles O36: the four instructions are sums on signed readings. -/
theorem signedAddition : Obligations.SignedAddition := by
  refine ⟨encodedRRR_of_decodeOpcode decodeOpcode_add, encodedRRN_of_decodeOpcode decodeOpcode_addi,
    encodedR00_of_decodeOpcode decodeOpcode_inc, encodedR00_of_decodeOpcode decodeOpcode_dec, fun s x y z n => ?_⟩
  exact forall_row_cons (signed_result rfl) (forall_row_cons (signed_result rfl) (forall_row_cons (signed_result rfl)
    (forall_row_cons (signed_result rfl) forall_row_nil)))

/-- Settles O37: three differences on signed readings, a sum and a difference on unsigned ones. -/
theorem subtractionAndUnsigned : Obligations.SubtractionAndUnsigned := by
  refine ⟨encodedRRR_of_decodeOpcode decodeOpcode_sub, encodedRRN_of_decodeOpcode decodeOpcode_subi,
    encodedRRN_of_decodeOpcode decodeOpcode_subi2, encodedRRR_of_decodeOpcode decodeOpcode_addu,
    encodedRRR_of_decodeOpcode decodeOpcode_subu, fun s x y z n => ⟨?signed, ?unsigned⟩⟩
  case signed =>
    exact forall_row_cons (signed_result rfl) (forall_row_cons (signed_result rfl)
      (forall_row_cons (signed_result rfl) forall_row_nil))
  case unsigned => exact forall_row_cons (unsigned_result rfl) (forall_row_cons (unsigned_result rfl) forall_row_nil)

/-- An overflow under `OVERFLOW_DEST = wrapped` (42_arithmetic.md R202, log 5). -/
theorem wrapped_result {s : State} {i : Instr} {x : Reg} {r : Int} {fits : Bool}
    (hdest : s.params.overflowDest = .wrapped) (hexec : exec i s = arithmeticResult s fits x r) (hfits : fits = false) :
    (Accepts s x (BitVec.ofInt 32 r) →
        ∃ t, Becomes s t (written x (BitVec.ofInt 32 r)) 0 [] ∧ exec i s = .next (raiseFault .overflow t)) ∧
      (¬Accepts s x (BitVec.ofInt 32 r) → exec i s = .next (raiseFault .overflow s)) := by
  subst hfits
  rw [hexec]
  exact ⟨fun ha => ⟨_, putReg_becomes s x _, arithmeticResult_wrapped hdest ha⟩,
    fun ha => arithmeticResult_wrapped_rejected hdest ha⟩

/-- Settles O38: the nine sums and differences, each outside the range of its reading. -/
theorem wrappedOverflow : Obligations.WrappedOverflow := by
  intro s x y z n hdest
  refine forall_row_cons ?add <| forall_row_cons ?addi <| forall_row_cons ?sub <| forall_row_cons ?subi <|
    forall_row_cons ?subi2 <| forall_row_cons ?inc <| forall_row_cons ?dec <| forall_row_cons ?addu <|
    forall_row_cons ?subu forall_row_nil
  case addu | subu => exact fun hr => wrapped_result hdest rfl (fitsUnsigned_eq_false hr)
  all_goals exact fun hr => wrapped_result hdest rfl (fitsSigned_eq_false hr)

/-! ### ABS, NEG, NOTI and the bitwise instructions -/

theorem w32_neg_toInt (v : Word) : w32 (-v.toInt) = -v := by
  rw [w32, BitVec.ofInt_neg, BitVec.ofInt_toInt]

/-- Settles O44: three results without checks. -/
theorem absoluteNegateNotImmediate : Obligations.AbsoluteNegateNotImmediate := by
  refine ⟨encodedRR0_of_decodeOpcode decodeOpcode_abs, encodedRR0_of_decodeOpcode decodeOpcode_neg,
    encodedRNN_of_decodeOpcode decodeOpcode_noti, fun s x y n => ?_⟩
  exact forall_row_cons (yields_of_eq rfl rfl) <| forall_row_cons (yields_of_eq rfl (w32_neg_toInt (s.readReg y))) <|
    forall_row_cons (yields_of_eq rfl (congrArg (~~~ ·) (zext16_eq n))) forall_row_nil

/-- Settles O45: eleven results without checks, the five immediates extended with zeros. -/
theorem bitwiseInstructions : Obligations.BitwiseInstructions := by
  refine ⟨encodedRRR_of_decodeOpcode decodeOpcode_and, encodedRRN_of_decodeOpcode decodeOpcode_andi,
    encodedRRR_of_decodeOpcode decodeOpcode_or, encodedRRN_of_decodeOpcode decodeOpcode_ori,
    encodedRRR_of_decodeOpcode decodeOpcode_xor, encodedRRN_of_decodeOpcode decodeOpcode_xori,
    encodedRR0_of_decodeOpcode decodeOpcode_not, encodedRRR_of_decodeOpcode decodeOpcode_nand,
    encodedRRN_of_decodeOpcode decodeOpcode_nandi, encodedRRR_of_decodeOpcode decodeOpcode_nor,
    encodedRRN_of_decodeOpcode decodeOpcode_nori, fun s x y z n => ?_⟩
  have himm := zext8_eq n
  refine forall_row_cons (yields_of_eq rfl rfl) <| forall_row_cons (yields_of_eq rfl ?andi) <|
    forall_row_cons (yields_of_eq rfl rfl) <| forall_row_cons (yields_of_eq rfl ?ori) <|
    forall_row_cons (yields_of_eq rfl rfl) <| forall_row_cons (yields_of_eq rfl ?xori) <|
    forall_row_cons (yields_of_eq rfl rfl) <| forall_row_cons (yields_of_eq rfl rfl) <|
    forall_row_cons (yields_of_eq rfl ?nandi) <| forall_row_cons (yields_of_eq rfl rfl) <|
    forall_row_cons (yields_of_eq rfl ?nori) forall_row_nil
  all_goals rw [himm]

/-! ### Shifts and rotations -/

/-- Settles O46: the value of a left shift is fixed by its number. -/
theorem leftShifts : Obligations.LeftShifts := by
  refine ⟨encodedRRR_of_decodeOpcode decodeOpcode_shl, encodedRRN_of_decodeOpcode decodeOpcode_shli,
    fun s x y z n => ?_⟩
  have hvalue : ∀ (k : Nat) (v : Word), v.toNat = (s.readReg y).toNat * 2 ^ k % 2 ^ 32 →
      shiftLeft (s.readReg y) k = v :=
    fun k v hv => BitVec.eq_of_toNat_eq ((shiftLeft_toNat (s.readReg y) k).trans hv.symm)
  exact forall_row_cons (fun v hv => yields_of_eq rfl (hvalue _ v hv)) <|
    forall_row_cons (fun v hv => yields_of_eq rfl (hvalue _ v hv)) forall_row_nil

/-- Settles O47: the value of a right shift is fixed by its unsigned or its signed number. -/
theorem rightShifts : Obligations.RightShifts := by
  refine ⟨encodedRRR_of_decodeOpcode decodeOpcode_shr, encodedRRN_of_decodeOpcode decodeOpcode_shri,
    encodedRRR_of_decodeOpcode decodeOpcode_shra, encodedRRN_of_decodeOpcode decodeOpcode_shrai,
    fun s x y z n => ⟨?logical, ?arithmetic⟩⟩
  case logical =>
    have hvalue : ∀ (k : Nat) (v : Word), v.toNat = (s.readReg y).toNat / 2 ^ k → shiftRight (s.readReg y) k = v :=
      fun k v hv => BitVec.eq_of_toNat_eq ((shiftRight_toNat (s.readReg y) k).trans hv.symm)
    exact forall_row_cons (fun v hv => yields_of_eq rfl (hvalue _ v hv)) <|
      forall_row_cons (fun v hv => yields_of_eq rfl (hvalue _ v hv)) forall_row_nil
  case arithmetic =>
    have hvalue : ∀ (k : Nat) (v : Word), v.toInt = (s.readReg y).toInt.fdiv (2 ^ k) →
        shiftRightArith (s.readReg y) k = v :=
      fun k v hv => BitVec.eq_of_toInt_eq ((shiftRightArith_toInt (s.readReg y) k).trans hv.symm)
    exact forall_row_cons (fun v hv => yields_of_eq rfl (hvalue _ v hv)) <|
      forall_row_cons (fun v hv => yields_of_eq rfl (hvalue _ v hv)) forall_row_nil

/-- Bit `j` of a rotation to the left: below the amount a bit that has come around, else one from `n` places to the
right (44_logic_shift_rotate.md R247). -/
theorem getLsbD_rotateLeft (v : Word) (n : Nat) {j : Nat} (hj : j < 32) :
    (rotateLeft v n).getLsbD j = v.getLsbD ((j + 32 - n % 32) % 32) := by
  have hn := Nat.mod_lt n (show 0 < 32 by omega)
  unfold rotateLeft
  generalize n % 32 = k at hn
  split
  next hzero => subst hzero; congr 1; omega
  next hne =>
    rw [BitVec.getLsbD_or, BitVec.getLsbD_shiftLeft, BitVec.getLsbD_ushiftRight]
    rcases Nat.lt_or_ge j k with hlow | hhigh
    · have hidx : (j + 32 - k) % 32 = 32 - k + j := by omega
      simp [hlow, hidx]
    · have hidx : (j + 32 - k) % 32 = j - k := by omega
      have hout : v.getLsbD (32 - k + j) = false := BitVec.getLsbD_of_ge v _ (by omega)
      simp [hj, hidx, hout, Nat.not_lt.mpr hhigh]

/-- Bit `j` of a rotation to the right (44_logic_shift_rotate.md R249). -/
theorem getLsbD_rotateRight (v : Word) (n : Nat) {j : Nat} (hj : j < 32) :
    (rotateRight v n).getLsbD j = v.getLsbD ((j + n % 32) % 32) := by
  have hn := Nat.mod_lt n (show 0 < 32 by omega)
  unfold rotateRight
  generalize n % 32 = k at hn
  split
  next hzero => subst hzero; congr 1; omega
  next hne =>
    rw [BitVec.getLsbD_or, BitVec.getLsbD_shiftLeft, BitVec.getLsbD_ushiftRight]
    rcases Nat.lt_or_ge j (32 - k) with hlow | hhigh
    · have hidx : (j + k) % 32 = k + j := by omega
      simp [hlow, hidx]
    · have hidx : (j + k) % 32 = j - (32 - k) := by omega
      have hout : v.getLsbD (k + j) = false := BitVec.getLsbD_of_ge v _ (by omega)
      simp [hj, hidx, hout, Nat.not_lt.mpr hhigh]

/-- Settles O48: the value of a rotation is fixed by its bits. -/
theorem rotations : Obligations.Rotations := by
  refine ⟨encodedRRR_of_decodeOpcode decodeOpcode_rotl, encodedRRN_of_decodeOpcode decodeOpcode_rotli,
    encodedRRR_of_decodeOpcode decodeOpcode_rotr, encodedRRN_of_decodeOpcode decodeOpcode_rotri,
    fun s x y z n => ⟨?left, ?right⟩⟩
  case left =>
    have hvalue : ∀ (k : Nat) (v : Word),
        (∀ j < 32, v.getLsbD j = (s.readReg y).getLsbD ((j + 32 - k % 32) % 32)) → rotateLeft (s.readReg y) k = v :=
      fun k v hv => BitVec.eq_of_getLsbD_eq fun j hj => (getLsbD_rotateLeft _ k hj).trans (hv j hj).symm
    exact forall_row_cons (fun v hv => yields_of_eq rfl (hvalue _ v hv)) <|
      forall_row_cons (fun v hv => yields_of_eq rfl (hvalue _ v hv)) forall_row_nil
  case right =>
    have hvalue : ∀ (k : Nat) (v : Word),
        (∀ j < 32, v.getLsbD j = (s.readReg y).getLsbD ((j + k % 32) % 32)) → rotateRight (s.readReg y) k = v :=
      fun k v hv => BitVec.eq_of_getLsbD_eq fun j hj => (getLsbD_rotateRight _ k hj).trans (hv j hj).symm
    exact forall_row_cons (fun v hv => yields_of_eq rfl (hvalue _ v hv)) <|
      forall_row_cons (fun v hv => yields_of_eq rfl (hvalue _ v hv)) forall_row_nil

end Sys2Proof.Proofs
end

section
/-! SUPPORT. Products, quotients and remainders, compares and branches, and ZERO as a destination (42_arithmetic.md
sections 3, 4 and 6, 45_compare.md, 46_branch.md, 10_state.md R43). -/

namespace Sys2Proof.Proofs

open Sys2Proof.Machine

/-! ### Products -/

/-- Two words put together, as numbers. -/
theorem append_word_toNat (h l : Word) : (h ++ l).toNat = h.toNat * 2 ^ 32 + l.toNat := by
  rw [BitVec.toNat_append, ← Nat.shiftLeft_add_eq_or_of_lt l.isLt, Nat.shiftLeft_eq]

/-- The halves of a 64-bit pattern, put together, are the pattern. -/
theorem append_halves (v : BitVec 64) : v.extractLsb' 32 32 ++ v.extractLsb' 0 32 = v := by
  have hv := v.isLt
  apply BitVec.eq_of_toNat_eq
  rw [append_word_toNat, BitVec.extractLsb'_toNat, BitVec.extractLsb'_toNat, Nat.shiftRight_eq_div_pow,
    Nat.shiftRight_eq_div_pow]
  omega

/-- What a product leaves: HI and LO together are its pattern modulo 2^64 (42_arithmetic.md R204). -/
theorem product_result {s : State} {i : Instr} {p : Int} (hexec : exec i s = .next (s.putProduct p)) :
    ∃ (hi lo : Word) (t : State), hi ++ lo = BitVec.ofInt 64 p ∧ exec i s = .next t ∧
      Becomes s t [(.hi, hi), (.lo, lo)] 0 [] :=
  ⟨_, _, _, append_halves (BitVec.ofInt 64 p), hexec, setHi_setLo_becomes s _ _⟩

/-- Settles O39: three products without checks. -/
theorem multiplication : Obligations.Multiplication := by
  refine ⟨encodedRR0_of_decodeOpcode decodeOpcode_mul, encodedRR0_of_decodeOpcode decodeOpcode_mulu,
    encodedRNN_of_decodeOpcode decodeOpcode_muli, fun s x y n => ?_⟩
  exact forall_row_cons (product_result rfl) <| forall_row_cons (product_result rfl) <|
    forall_row_cons (product_result rfl) forall_row_nil

/-! ### The division law -/

/-- The readings of a signed word: the range of dividends and divisors. -/
def InSigned (a : Int) : Prop := -2 ^ 31 ≤ a ∧ a ≤ 2 ^ 31 - 1

theorem inSigned_word (v : Word) : InSigned v.toInt := toInt_bounds v

theorem inSigned_imm16 (n : BitVec 16) : InSigned n.toInt := by
  have hlo := BitVec.le_toInt n
  have hhi := BitVec.toInt_lt (x := n)
  unfold InSigned
  omega

theorem inSigned_imm8 (n : BitVec 8) : InSigned n.toNat := by
  have hn := n.isLt
  unfold InSigned
  omega

theorem fitsSigned_of_natAbs_lt {r : Int} (h : r.natAbs < 2 ^ 31) : fitsSigned r = true := by
  simp only [fitsSigned, Bool.and_eq_true, decide_eq_true_eq]
  omega

/-- The remainder is smaller than the divisor, and 0 or of the dividend's sign (42_arithmetic.md R203). -/
theorem remainder_law (a : Int) {b : Int} (hb : b ≠ 0) :
    (remainder a b).natAbs < b.natAbs ∧ (remainder a b = 0 ∨ (remainder a b).sign = a.sign) := by
  rw [remainder_eq_tmod]
  refine ⟨?_, ?_⟩
  · rw [Int.natAbs_tmod]
    exact Nat.mod_lt _ (Int.natAbs_pos.mpr hb)
  · have hsign := Int.sign_tmod a b
    split at hsign
    next => exact .inl (Int.sign_eq_zero_iff_zero.mp hsign)
    next => exact .inr hsign

theorem remainder_toInt (a : Int) {b : Int} (hb : b ≠ 0) (hrange : InSigned b) :
    (w32 (remainder a b)).toInt = remainder a b := by
  refine w32_toInt (fitsSigned_of_natAbs_lt ?_)
  have hlt := (remainder_law a hb).1
  obtain ⟨hlo, hhi⟩ := hrange
  omega

/-- The dividend is the divisor times the quotient plus the remainder. -/
theorem quotient_law (a b : Int) : a = b * a.tdiv b + remainder a b := by
  rw [remainder]; omega

/-- A quotient fits but for that of -2^31 by -1: by any divisor of magnitude 2 or more it is at most half as large. -/
theorem fitsSigned_tdiv {a b : Int} (ha : InSigned a) (hopen : ¬(a = -2 ^ 31 ∧ b = -1)) :
    fitsSigned (a.tdiv b) = true := by
  obtain ⟨hlo, hhi⟩ := ha
  by_cases hone : b = 1
  · subst hone
    rw [Int.tdiv_one]
    simp only [fitsSigned, Bool.and_eq_true, decide_eq_true_eq]
    omega
  by_cases hminus : b = -1
  · subst hminus
    rw [Int.tdiv_neg, Int.tdiv_one]
    simp only [fitsSigned, Bool.and_eq_true, decide_eq_true_eq]
    omega
  · refine fitsSigned_of_natAbs_lt ?_
    have hhalf : (a.tdiv b).natAbs ≤ a.natAbs / 2 := by
      rw [Int.natAbs_tdiv]
      change a.natAbs / b.natAbs ≤ a.natAbs / 2
      rcases Nat.eq_zero_or_pos b.natAbs with hzero | hpos
      · rw [hzero, Nat.div_zero]; exact Nat.zero_le _
      · exact Nat.div_le_div_left (by omega) (by omega)
    omega

theorem divisorCheck_eq_none {b : Int} (hb : b ≠ 0) : divisorCheck b = none := if_neg hb

theorem divisorCheck_zero {b : Int} (hb : b = 0) : divisorCheck b = some .divisionByZero := if_pos hb

theorem dividendCheck_eq_none {s : State} {a : Int} (h : a = 0 → s.params.imm2N0 = .result0) :
    dividendCheck s a = none := by
  unfold dividendCheck
  split
  next hint =>
    refine if_neg fun ha => ?_
    rw [h ha] at hint; cases hint
  next => rfl

theorem dividendCheck_zero {s : State} (h : s.params.imm2N0 = .int1) :
    dividendCheck s 0 = some .divisionByZero := by simp [dividendCheck, h]

/-! ### Quotients -/

/-- What a signed division leaves in HI and LO (42_arithmetic.md R203). -/
theorem quotient_result {s : State} {i : Instr} {a b : Int} (ha : InSigned a) (hrange : InSigned b) (hb : b ≠ 0)
    (hopen : ¬(a = -2 ^ 31 ∧ b = -1)) (hexec : exec i s = .next (s.putQuotient a b)) :
    ∃ (hi lo : Word) (t : State), a = b * hi.toInt + lo.toInt ∧ lo.toInt.natAbs < b.natAbs ∧
      (lo.toInt = 0 ∨ lo.toInt.sign = a.sign) ∧ exec i s = .next t ∧ Becomes s t [(.hi, hi), (.lo, lo)] 0 [] := by
  obtain ⟨hsmall, hsign⟩ := remainder_law a hb
  refine ⟨w32 (a.tdiv b), w32 (remainder a b), _, ?_, ?_, ?_, hexec, setHi_setLo_becomes s _ _⟩
  · rw [w32_toInt (fitsSigned_tdiv ha hopen), remainder_toInt a hb hrange]
    exact quotient_law a b
  · rw [remainder_toInt a hb hrange]; exact hsmall
  · rw [remainder_toInt a hb hrange]; exact hsign

theorem divideSigned_eq {s : State} {a b : Int} (hopen : ¬(a = -2 ^ 31 ∧ b = -1)) :
    divideSigned s a b = complete s [divisorCheck b] (s.putQuotient a b) := if_neg hopen

theorem divideSigned_of_ne_zero {s : State} {a b : Int} (hb : b ≠ 0) (hopen : ¬(a = -2 ^ 31 ∧ b = -1)) :
    divideSigned s a b = .next (s.putQuotient a b) := by
  rw [divideSigned_eq hopen, complete_cons_of_none (divisorCheck_eq_none hb), complete_nil]

theorem exec_divi2_eq (x : Reg) (n : BitVec 16) (s : State) :
    exec (.divi2 x n) s = complete s [divisorCheck (s.readReg x).toInt, dividendCheck s n.toInt]
      (s.putQuotient n.toInt (s.readReg x).toInt) := rfl

theorem exec_divi2_of_ne_zero {s : State} {x : Reg} {n : BitVec 16} (hb : (s.readReg x).toInt ≠ 0)
    (hn : n.toInt = 0 → s.params.imm2N0 = .result0) :
    exec (.divi2 x n) s = .next (s.putQuotient n.toInt (s.readReg x).toInt) := by
  rw [exec_divi2_eq, complete_cons_of_none (divisorCheck_eq_none hb), complete_cons_of_none (dividendCheck_eq_none hn),
    complete_nil]

theorem exec_divu_eq (x y : Reg) (s : State) :
    exec (.divu x y) s = complete s [divisorCheck (s.readReg y).toNat]
      (s.putQuotient (s.readReg x).toNat (s.readReg y).toNat) := rfl

/-- A number no larger than a word's is held by a word without a wrap. -/
theorem toNat_w32_natCast {n : Nat} {v : Word} (h : n ≤ v.toNat) : (w32 (n : Int)).toNat = n := by
  have hv := v.isLt
  have hfits : fitsUnsigned (n : Int) = true := by
    simp only [fitsUnsigned, Bool.and_eq_true, decide_eq_true_eq]; omega
  have hnum := w32_toNat hfits
  omega

/-- What DIVU leaves in HI and LO (42_arithmetic.md R192). -/
theorem divu_result {s : State} {x y : Reg} (hb : (s.readReg y).toNat ≠ 0) :
    ∃ (hi lo : Word) (t : State), (s.readReg x).toNat = (s.readReg y).toNat * hi.toNat + lo.toNat ∧
      lo.toNat < (s.readReg y).toNat ∧ exec (.divu x y) s = .next t ∧ Becomes s t [(.hi, hi), (.lo, lo)] 0 [] := by
  have hexec := exec_divu_eq x y s
  rw [complete_cons_of_none (divisorCheck_eq_none (Int.natCast_ne_zero.mpr hb)), complete_nil] at hexec
  refine ⟨_, _, _, ?_, ?_, hexec, setHi_setLo_becomes s _ _⟩ <;>
    rw [remainder_eq_tmod, ← Int.ofNat_tmod, toNat_w32_natCast (Nat.mod_le _ _)]
  · rw [← Int.ofNat_tdiv, toNat_w32_natCast (Nat.div_le_self _ _)]
    exact (Nat.div_add_mod _ _).symm
  · exact Nat.mod_lt _ (Nat.pos_of_ne_zero hb)

/-- Settles O40: three signed divisions by one law, DIVU by that of natural numbers. -/
theorem division : Obligations.Division := by
  refine ⟨encodedRR0_of_decodeOpcode decodeOpcode_div, encodedRR0_of_decodeOpcode decodeOpcode_divu,
    encodedRNN_of_decodeOpcode decodeOpcode_divi, encodedRNN_of_decodeOpcode decodeOpcode_divi2,
    fun s x y n => ⟨?_, divu_result⟩⟩
  have hx := inSigned_word (s.readReg x)
  have hn := inSigned_imm16 n
  refine forall_row_cons (fun hb hopen _ => ?div) <| forall_row_cons (fun hb hopen _ => ?divi) <|
    forall_row_cons (fun hb hopen hzero => ?divi2) forall_row_nil
  case div => exact quotient_result hx (inSigned_word _) hb hopen (divideSigned_of_ne_zero hb hopen)
  case divi => exact quotient_result hx hn hb hopen (divideSigned_of_ne_zero hb hopen)
  case divi2 => exact quotient_result hn hx hb hopen (exec_divi2_of_ne_zero hb (hzero rfl))

/-! ### Divisors of 0 -/

theorem divideSigned_zero {s : State} (a : Int) {b : Int} (hb : b = 0) :
    divideSigned s a b = .next (raiseFault .divisionByZero s) := by
  rw [divideSigned_eq fun h => by omega, complete_cons_of_some (divisorCheck_zero hb)]

theorem toInt_eq_zero_of_eq_zero {w : Nat} {v : BitVec w} (h : v = 0) : v.toInt = 0 := by
  subst h; exact BitVec.toInt_zero

theorem toInt_of_signExtend_eq_zero {n : BitVec 16} (h : n.signExtend 32 = 0) : n.toInt = 0 :=
  (BitVec.toInt_signExtend_of_le (by omega)).symm.trans (toInt_eq_zero_of_eq_zero h)

theorem toNat_of_setWidth_eq_zero {m : BitVec 8} (h : m.setWidth 32 = 0) : m.toNat = 0 := by
  have hnum := congrArg BitVec.toNat h
  have hm := m.isLt
  simp only [BitVec.toNat_setWidth] at hnum
  change m.toNat % 2 ^ 32 = 0 at hnum
  omega

theorem exec_modi2_eq (x y : Reg) (n : BitVec 8) (s : State) :
    exec (.modi2 x y n) s = writeResult s [divisorCheck (s.readReg y).toInt, dividendCheck s n.toNat] x
      (w32 (remainder n.toNat (s.readReg y).toInt)) := rfl

theorem exec_divi2_zero {s : State} (x : Reg) (h : s.params.imm2N0 = .int1) :
    exec (.divi2 x 0) s = .next (raiseFault .divisionByZero s) := by
  have hzero : (0 : BitVec 16).toInt = 0 := rfl
  rw [exec_divi2_eq, hzero]
  by_cases hb : (s.readReg x).toInt = 0
  · rw [complete_cons_of_some (divisorCheck_zero hb)]
  · rw [complete_cons_of_none (divisorCheck_eq_none hb), complete_cons_of_some (dividendCheck_zero h)]

theorem exec_modi2_zero {s : State} (x y : Reg) (h : s.params.imm2N0 = .int1) :
    exec (.modi2 x y 0) s = .next (raiseFault .divisionByZero s) := by
  rw [exec_modi2_eq]
  by_cases hb : (s.readReg y).toInt = 0
  · rw [writeResult_cons_of_some x _ (divisorCheck_zero hb)]
  · rw [divisorCheck_eq_none hb]
    exact (complete_cons_of_none rfl).trans (complete_cons_of_some (dividendCheck_zero h))

/-- Settles O41: the first check of each of the seven is that of its divisor. -/
theorem divisionByZero : Obligations.DivisionByZero := by
  intro s x y z n m
  refine ⟨?rows, fun hint => ⟨exec_divi2_zero x hint, exec_modi2_zero x y hint⟩⟩
  refine forall_row_cons (fun h => ?div) <| forall_row_cons (fun h => ?divu) <| forall_row_cons (fun h => ?divi) <|
    forall_row_cons (fun h => ?divi2) <| forall_row_cons (fun h => ?mod) <| forall_row_cons (fun h => ?modi) <|
    forall_row_cons (fun h => ?modi2) forall_row_nil
  case div => exact divideSigned_zero _ (toInt_eq_zero_of_eq_zero h)
  case divu => exact complete_cons_of_some (divisorCheck_zero (congrArg (fun v : Word => (v.toNat : Int)) h))
  case divi => exact divideSigned_zero _ (toInt_of_signExtend_eq_zero h)
  case divi2 => exact complete_cons_of_some (divisorCheck_zero (toInt_eq_zero_of_eq_zero h))
  case mod => exact writeResult_cons_of_some x _ (divisorCheck_zero (toInt_eq_zero_of_eq_zero h))
  case modi =>
    exact writeResult_cons_of_some x _ (divisorCheck_zero (congrArg Int.ofNat (toNat_of_setWidth_eq_zero h)))
  case modi2 => exact writeResult_cons_of_some x _ (divisorCheck_zero (toInt_eq_zero_of_eq_zero h))

/-! ### -2^31 by -1 -/

/-- An interrupt stores nothing but the word it pushes. -/
theorem read_interrupt {n : Fin 64} {s : State} {a : Nat} (ha : a + 4 < s.sp.toNat ∨ s.sp.toNat ≤ a) :
    (interrupt n s).mem.read a = s.mem.read a := by
  obtain ⟨-, h⟩ | ⟨-, ⟨hroom, -, -⟩, h⟩ := interrupt_cases n s <;> rw [h]
  · rfl
  · change (s.pushWord s.pc).mem.read a = s.mem.read a
    rw [(pushWord_becomes s.pc).2.1 a, if_neg]
    rw [bytesOfWord_length]
    omega

theorem read_divideOverflow {s : State} {a : Nat} (ha : a + 4 < s.sp.toNat ∨ s.sp.toNat ≤ a) :
    (divideOverflow s).mem.read a = s.mem.read a := by
  obtain h | ⟨n, h⟩ := divideOverflow_cases s <;> rw [h]
  · rfl
  · exact read_interrupt (s := dividedOpen s) ha

theorem divideSigned_open (s : State) {a b : Int} (ha : a = -2 ^ 31) (hb : b = -1) :
    divideSigned s a b = .next (divideOverflow s) := if_pos ⟨ha, hb⟩

/-- What a division of -2^31 by -1 leaves as it was, whatever the free value is (42_arithmetic.md R203, D18). -/
theorem open_result {s : State} {i : Instr} (hexec : exec i s = .next (divideOverflow s)) :
    ∃ t, exec i s = .next t ∧
      (∀ r, r ∉ [Reg.hi, .lo, .err, .sp, .pc] → t.readReg r = s.readReg r) ∧
      (∀ a, a + 4 < s.sp.toNat ∨ s.sp.toNat ≤ a → t.mem.read a = s.mem.read a) ∧
      t.params = s.params ∧ t.inPorts = s.inPorts ∧ t.outPorts = s.outPorts := by
  obtain ⟨-, -, hparams⟩ := sameConstants_divideOverflow s
  obtain ⟨hin, hout⟩ := divideOverflow_ports s
  refine ⟨_, hexec, fun r hr => ?_, fun a ha => read_divideOverflow ha, hparams, hin, hout⟩
  simp only [List.mem_cons, List.not_mem_nil, or_false, not_or] at hr
  obtain ⟨hhi, hlo, herr, hsp, hpc⟩ := hr
  exact readReg_divideOverflow hsp hpc herr hhi hlo s

/-- Settles O42: both instructions are the one free division. -/
theorem divisionOverflowOpen : Obligations.DivisionOverflowOpen := by
  intro s x y n hx
  exact forall_row_cons (fun hy => open_result (divideSigned_open s hx hy)) <|
    forall_row_cons (fun hn => open_result (divideSigned_open s hx hn)) forall_row_nil

/-! ### Remainders -/

/-- What MOD, MODI and MODI2 leave in their destination (42_arithmetic.md section 6). -/
theorem remainder_result {s : State} {i : Instr} {x : Reg} {a b : Int} {checks : List (Option Cause)} (hb : b ≠ 0)
    (hrange : InSigned b) (hchecks : firstCause checks = none)
    (hexec : exec i s = writeResult s checks x (w32 (remainder a b))) :
    ∃ (q : Int) (v : Word), a = b * q + v.toInt ∧ v.toInt.natAbs < b.natAbs ∧
      (v.toInt = 0 ∨ v.toInt.sign = a.sign) ∧ Yields s i x v := by
  obtain ⟨hsmall, hsign⟩ := remainder_law a hb
  refine ⟨a.tdiv b, w32 (remainder a b), ?_, ?_, ?_, yields_of_writeResult hchecks hexec⟩ <;>
    rw [remainder_toInt a hb hrange]
  exacts [quotient_law a b, hsmall, hsign]

theorem firstCause_divisorCheck {b : Int} (hb : b ≠ 0) : firstCause [divisorCheck b] = none := by
  rw [divisorCheck_eq_none hb, firstCause_none, firstCause_nil]

/-- Settles O43: three remainders by one law. -/
theorem remainderInstructions : Obligations.RemainderInstructions := by
  refine ⟨encodedRRR_of_decodeOpcode decodeOpcode_mod, encodedRRN_of_decodeOpcode decodeOpcode_modi,
    encodedRRN_of_decodeOpcode decodeOpcode_modi2, fun s x y z n => ?_⟩
  refine forall_row_cons (fun hb _ => ?mod) <| forall_row_cons (fun hb _ => ?modi) <|
    forall_row_cons (fun hb hzero => ?modi2) forall_row_nil
  case mod => exact remainder_result hb (inSigned_word _) (firstCause_divisorCheck hb) rfl
  case modi => exact remainder_result hb (inSigned_imm8 n) (firstCause_divisorCheck hb) rfl
  case modi2 =>
    refine remainder_result hb (inSigned_word _) ?_ (exec_modi2_eq x y n s)
    rw [divisorCheck_eq_none hb, dividendCheck_eq_none (hzero rfl)]; rfl

/-! ### Compares -/

theorem compareResult_toInt (a b : Int) :
    (a < b → (compareResult a b).toInt = -1) ∧ (a = b → (compareResult a b).toInt = 0) ∧
      (b < a → (compareResult a b).toInt = 1) := by
  unfold compareResult
  refine ⟨fun h => ?_, fun h => ?_, fun h => ?_⟩
  · rw [if_pos h]; rfl
  · rw [if_neg (by omega), if_pos h]; rfl
  · rw [if_neg (by omega), if_neg (by omega)]; rfl

/-- What a compare of `a` with `b` leaves (45_compare.md R260). -/
theorem compare_result {s : State} {i : Instr} {a b : Int}
    (hexec : exec i s = .next (s.setCmpr (compareResult a b))) :
    ∃ (c : Word) (t : State), (a < b → c.toInt = -1) ∧ (a = b → c.toInt = 0) ∧ (b < a → c.toInt = 1) ∧
      exec i s = .next t ∧ Becomes s t [(.cmpr, c)] 0 [] := by
  obtain ⟨hless, hequal, hgreater⟩ := compareResult_toInt a b
  exact ⟨_, _, hless, hequal, hgreater, hexec, setCmpr_becomes s _⟩

/-- Settles O49: three compares without checks. -/
theorem compareInstructions : Obligations.CompareInstructions := by
  refine ⟨encodedRR0_of_decodeOpcode decodeOpcode_cmp, encodedRR0_of_decodeOpcode decodeOpcode_cmpu,
    encodedRNN_of_decodeOpcode decodeOpcode_cmpi, fun s x y n => ?_⟩
  exact forall_row_cons (compare_result rfl) <| forall_row_cons (compare_result rfl) <|
    forall_row_cons (compare_result rfl) forall_row_nil

/-! ### Branches -/

theorem jumpRelative_of_inCode {s : State} {n : BitVec 24} (h : InCode s (branchTarget s n)) :
    jumpRelative s n = .next (s.setPc (w32 (branchTarget s n))) := by
  rw [jumpRelative, complete_cons_of_none (targetCheck_eq_none.mpr h), complete_nil]

theorem jumpRelative_of_not_inCode {s : State} {n : BitVec 24} (h : ¬InCode s (branchTarget s n)) :
    jumpRelative s n = .next (raiseFault .accessViolation s) := by
  rw [jumpRelative, complete_cons_of_some (targetCheck_eq_some.mpr ⟨h, rfl⟩)]

/-- The three cases of a jump that is taken where `taken` holds (46_branch.md R270 to R272). -/
theorem branch_cases {s : State} {i : Instr} {n : BitVec 24} {taken : Prop}
    (hyes : taken → exec i s = jumpRelative s n) (hno : ¬taken → exec i s = .next s) :
    (taken → InCode s (branchTarget s n) →
        ∃ (v : Word) (t : State), (v.toNat : Int) = branchTarget s n ∧ exec i s = .next t ∧
          Becomes s t [(.pc, v)] 0 []) ∧
      (taken → ¬InCode s (branchTarget s n) → exec i s = .next (raiseFault .accessViolation s)) ∧
      (¬taken → exec i s = .next s) :=
  ⟨fun htaken hcode => ⟨_, _, w32_toNat_of_inCode hcode, (hyes htaken).trans (jumpRelative_of_inCode hcode),
      setPc_becomes s _⟩,
    fun htaken hout => (hyes htaken).trans (jumpRelative_of_not_inCode hout), hno⟩

/-- A conditional branch is taken exactly where its condition holds of CMPR. -/
theorem branchIf_cases {s : State} {i : Instr} {n : BitVec 24} {c : Condition} {taken : Prop}
    (hholds : c.holds s.cmpr = true ↔ taken) (hexec : exec i s = branchIf c s n) :
    (taken → InCode s (branchTarget s n) →
        ∃ (v : Word) (t : State), (v.toNat : Int) = branchTarget s n ∧ exec i s = .next t ∧
          Becomes s t [(.pc, v)] 0 []) ∧
      (taken → ¬InCode s (branchTarget s n) → exec i s = .next (raiseFault .accessViolation s)) ∧
      (¬taken → exec i s = .next s) :=
  branch_cases (fun h => hexec.trans (if_pos (hholds.mpr h)))
    (fun h => hexec.trans ((if_neg (mt hholds.mp h)).trans (complete_nil s s)))

/-- Settles O50: each condition is the comparison of the signed CMPR with 0 that the table names. -/
theorem branchInstructions : Obligations.BranchInstructions := by
  intro s n c target hc htarget
  obtain rfl : branchTarget s n = target := (branchTarget_eq s n).trans htarget.symm
  subst hc
  exact forall_row_cons (branchIf_cases (c := .equal) decide_eq_true_iff rfl) <|
    forall_row_cons (branchIf_cases (c := .notEqual) decide_eq_true_iff rfl) <|
    forall_row_cons (branchIf_cases (c := .less) decide_eq_true_iff rfl) <|
    forall_row_cons (branchIf_cases (c := .lessEqual) decide_eq_true_iff rfl) <|
    forall_row_cons (branchIf_cases (c := .greater) decide_eq_true_iff rfl) <|
    forall_row_cons (branchIf_cases (c := .greaterEqual) decide_eq_true_iff rfl) <|
    forall_row_cons (branch_cases (fun _ => rfl) fun h => absurd trivial h) forall_row_nil

/-! ### ZERO as a destination -/

/-- A result without checks that is written to ZERO under `WP_WRITE = discard` is lost (10_state.md R38, R43). -/
theorem exec_of_writeResult_zero {s : State} {i : Instr} {v : Word} (h : s.params.wpWrite = .discard)
    (hexec : exec i s = writeResult s [] .zero v) : exec i s = .next s :=
  hexec.trans (writeResult_of_accepts firstCause_nil (accepts_count (by decide) (fun _ => h) v))

theorem exec_inc_zero {s : State} (h : s.params.wpWrite = .discard) : exec (.inc .zero) s = .next s := by
  have hfits : fitsSigned (s.signed .zero + 1) = true := by
    change fitsSigned ((0 : Word).toInt + 1) = true
    decide
  exact exec_of_writeResult_zero h ((exec_inc .zero s).trans (arithmeticResult_of_fits hfits))

theorem exec_dec_zero {s : State} (h : s.params.wpWrite = .discard) : exec (.dec .zero) s = .next s := by
  have hfits : fitsSigned (s.signed .zero - 1) = true := by
    change fitsSigned ((0 : Word).toInt - 1) = true
    decide
  exact exec_of_writeResult_zero h ((exec_dec .zero s).trans (arithmeticResult_of_fits hfits))

/-- An instruction that names ZERO as its destination, other than POP, IN and OUT, leaves the state as it was or raises
a fault from it: its result goes through `writeResult` or `arithmeticResult`. -/
theorem exec_dest_zero {s : State} (h : s.params.wpWrite = .discard) {i : Instr} (hdest : i.dest = some .zero)
    (hpop : i ≠ .pop .zero) (htransfer : i.isTransfer = false) :
    exec i s = .next s ∨ ∃ c : Cause, exec i s = .next (raiseFault c s) := by
  cases i with
  | set x | cp x | lb x | lw x | abs x | neg x | mod x | modi x | modi2 x | and x | andi x | or x | ori x | xor x
  | xori x | not x | noti x | nand x | nandi x | nor x | nori x | shl x | shli x | shr x | shri x | shra x | shrai x
  | rotl x | rotli x | rotr x | rotri x =>
    obtain rfl : x = .zero := Option.some.inj hdest
    exact writeResult_zero h
  | add x | addu x | addi x | sub x | subu x | subi x | subi2 x =>
    obtain rfl : x = .zero := Option.some.inj hdest
    exact arithmeticResult_zero h
  | inc x =>
    obtain rfl : x = .zero := Option.some.inj hdest
    exact .inl (exec_inc_zero h)
  | dec x =>
    obtain rfl : x = .zero := Option.some.inj hdest
    exact .inl (exec_dec_zero h)
  | pop x =>
    obtain rfl : x = .zero := Option.some.inj hdest
    exact absurd rfl hpop
  | inp | out => cases htransfer
  | _ => cases hdest

/-- POP ZERO under `WP_WRITE = discard` only drops the word. -/
theorem exec_pop_zero {s : State} (h : s.params.wpWrite = .discard) (hexists : s.sp.toNat + 4 ≤ s.params.memSize) :
    ∃ t, exec (.pop .zero) s = .next t ∧ Becomes s t [(.sp, BitVec.ofNat 32 (s.sp.toNat + 4))] 0 [] :=
  ⟨_, exec_pop_of_accepts (by decide) rfl hexists (accepts_count (by decide) (fun _ => h) _),
    putReg_dropWord_becomes (by decide) _⟩

/-- A transfer with ZERO as count register asks for 0 bytes and changes nothing (49_io.md R301, R302). -/
theorem exec_transfer_zero {s : State} (h : s.params.wpWrite = .discard) (x : Reg) {z : Reg}
    (hport : (s.readReg z).toNat ≤ 7) : exec (.inp x .zero z) s = .next s ∧ exec (.out x .zero z) s = .next s := by
  have hnone : inputAnswer s (portOf s z) 0 = [] :=
    List.length_eq_zero_iff.mp (Nat.le_zero.mp (inputAnswer_length _ _ _))
  have hexists : (0 : Nat) ≠ 0 → (s.readReg x).toNat + 0 ≤ s.params.memSize := fun hne => absurd rfl hne
  have hfree : Unprotected s (s.readReg x).toNat 0 := fun b hlo hhi => by omega
  constructor
  · rw [exec_inp_of_accepts (n := 0) (by decide) (fun _ => h) rfl rfl (portOf_val hport) hexists hfree, hnone]
    rfl
  · rw [exec_out_of_accepts (n := 0) (by decide) (fun _ => h) rfl rfl (portOf_val hport) hexists]
    rfl

/-- Settles O26: ZERO has no field, and no write of it is kept. -/
theorem zeroReadsZero : Obligations.ZeroReadsZero := by
  refine ⟨fun s => rfl, fun s h => ⟨fun i => exec_dest_zero h, fun y z m n => ?_,
    fun hexists _ => exec_pop_zero h hexists, fun x z hport => exec_transfer_zero h x hport⟩⟩
  simp only [List.forall_mem_cons]
  refine ⟨?_, ?_, ?_, ?_, exec_inc_zero h, exec_dec_zero h, ?_, ?_, ?_, ?_, ?_, ?_, ?_, ?_, ?_, ?_, ?_, ?_, ?_, ?_, ?_,
    ?_, ?_, ?_, ?_, ?_, ?_, ?_, forall_row_nil⟩
  all_goals exact exec_of_writeResult_zero h rfl

end Sys2Proof.Proofs
end
